-- ==== Sys2Proof/Word.lean ====
section
/-! DEFINITION. The word of the block: 64 bits, never signed (spec/00_scope.md R9, R7 `WORD_WIDTH`). -/

namespace Sys2Proof

/-- A *word* of R9: a natural number `v` with `0 ≤ v < 2^64`, bit 0 the least significant.
It is never read as signed (R20, R100). -/
abbrev Word := BitVec 64

end Sys2Proof
end

