-- ==== Sys2Proof/Ports.lean ====
section
/-! DEFINITION. The block's ports (spec/30_encoding.md R60): what the host drives at one rising edge of
`clk`, and what it can sample after it.  `clk` itself is no field: one `Inputs` value is one rising edge. -/

namespace Sys2Proof

/-- The command port of R60 and R61: the control bits `cmd_valid`, `cmd_op` and the two operand buses. -/
structure CmdPort where
  /-- `cmd_valid`: 1 when a command is presented this cycle. -/
  cmdValid : Bool
  /-- `cmd_op[1:0]`: the operation code, ignored when `cmd_valid = 0`. -/
  cmdOp : BitVec 2
  /-- `cmd_seed_a[63:0]`: SEED's `initialA`, ignored by every other command. -/
  cmdSeedA : Word
  /-- `cmd_seed_b[63:0]`: SEED's `initialB`, ignored by every other command. -/
  cmdSeedB : Word
  deriving DecidableEq, Repr

/-- Every input the block samples at one rising edge (R60): `rst` and the command port. -/
structure Inputs where
  /-- `rst`: synchronous reset, active high (R170). -/
  rst : Bool
  /-- The command port. -/
  cmd : CmdPort
  deriving DecidableEq, Repr

/-- Every output of the block (R60); R13 states claims through these four. -/
structure Outputs where
  /-- `rsp_valid`. -/
  rspValid : Bool
  /-- `rsp_op[1:0]`. -/
  rspOp : BitVec 2
  /-- `rsp_data[63:0]`. -/
  rspData : Word
  /-- `seeded_o`. -/
  seededO : Bool
  deriving DecidableEq, Repr

end Sys2Proof
end

