-- ==== Sys2Proof/Syntax.lean ====
section
/-! DEFINITION. The commands of the block: one constructor per row of spec/opcode_table.json. -/

namespace Sys2Proof

/-- The five commands a host can present at one edge (R3, R63).  "The five commands of rule R63 are the whole
command set" (R68). -/
inductive Instr where
  /-- IDLE: no command is presented (R80). -/
  | idle
  /-- NOP: a valid command that does nothing (R81). -/
  | nop
  /-- SEED `initialA`, `initialB`: load both state words (R82). -/
  | seed (initialA initialB : Word)
  /-- ADVANCE: one xorshift128+ step, returning the raw word (R109). -/
  | advance
  /-- NEXT_DOUBLE: one xorshift128+ step, returning the double (R137). -/
  | nextDouble
  deriving DecidableEq, Repr

/-- A *generating command* of R15: "ADVANCE or NEXT_DOUBLE: a command that advances the state and produces a
response". -/
def Instr.isGenerating : Instr → Bool
  | .idle => false
  | .nop => false
  | .seed _ _ => false
  | .advance => true
  | .nextDouble => true

end Sys2Proof
end

