-- ==== Sys2Proof/Decode.lean ====
section
/-! DEFINITION. Decoding a command, encoding it, and the opcode table (spec/30_encoding.md R61 to R64).

The decode is total: "There are no reserved, illegal, hint or custom encodings, and no encoding traps" (R64), so
no port value is rejected. -/

namespace Sys2Proof

/-- `CW = {cmd_valid, cmd_op[1:0]}` (R61). -/
def controlWord (p : CmdPort) : BitVec 3 :=
  BitVec.ofBool p.cmdValid ++ p.cmdOp

/-- The decode table of R63, row by row; the bits are `cmd_valid`, `cmd_op[1]`, `cmd_op[0]`.
SEED's operands are the buses unchanged (R62). -/
def decode (p : CmdPort) : Instr :=
  match p.cmdValid, p.cmdOp.getLsbD 1, p.cmdOp.getLsbD 0 with
  | false, _, _ => .idle
  | true, false, false => .nop
  | true, false, true => .seed p.cmdSeedA p.cmdSeedB
  | true, true, false => .advance
  | true, true, true => .nextDouble

/-- The port values that present a command (R67's table).  `x` supplies the don't-care inputs, the `x` entries
of that table: "`x` means any value". -/
def encode (x : CmdPort) : Instr → CmdPort
  | .idle => { x with cmdValid := false }
  | .nop => { x with cmdValid := true, cmdOp := 0b00#2 }
  | .seed a b => { cmdValid := true, cmdOp := 0b01#2, cmdSeedA := a, cmdSeedB := b }
  | .advance => { x with cmdValid := true, cmdOp := 0b10#2 }
  | .nextDouble => { x with cmdValid := true, cmdOp := 0b11#2 }

/-! ### The opcode table -/

/-- One row of spec/opcode_table.json: its mnemonic, and its mask and match over CW. -/
structure OpcodeRow where
  mnemonic : String
  mask : BitVec 3
  pattern : BitVec 3
  deriving DecidableEq, Repr

/-- The rows of spec/opcode_table.json, in its order. -/
def opcodeTable : List OpcodeRow :=
  [ { mnemonic := "IDLE", mask := 0b100#3, pattern := 0b000#3 },
    { mnemonic := "NOP", mask := 0b111#3, pattern := 0b100#3 },
    { mnemonic := "SEED", mask := 0b111#3, pattern := 0b101#3 },
    { mnemonic := "ADVANCE", mask := 0b111#3, pattern := 0b110#3 },
    { mnemonic := "NEXT_DOUBLE", mask := 0b111#3, pattern := 0b111#3 } ]

/-- Does a control word belong to a row? -/
def OpcodeRow.admits (r : OpcodeRow) (cw : BitVec 3) : Bool := cw &&& r.mask == r.pattern

/-- The mnemonic of a command's row in the table. -/
def Instr.mnemonic : Instr → String
  | .idle => "IDLE"
  | .nop => "NOP"
  | .seed _ _ => "SEED"
  | .advance => "ADVANCE"
  | .nextDouble => "NEXT_DOUBLE"

/-! ### The command port as one number

DESIGN CHOICE (assumption log 5): the spec keeps CW and the operand buses apart (R42, R61).  Where one number
must stand for a whole presented command, CW is its bits 2..0, as the table numbers them, `cmd_seed_a` its bits
66..3 and `cmd_seed_b` its bits 130..67. -/

/-- The command port as 131 bits: `{cmd_seed_b, cmd_seed_a, CW}`. -/
def packPort (p : CmdPort) : BitVec 131 :=
  p.cmdSeedB ++ p.cmdSeedA ++ controlWord p

/-- The command port that 131 bits stand for. -/
def unpackPort (w : BitVec 131) : CmdPort :=
  { cmdValid := w.getLsbD 2
    cmdOp := w.extractLsb' 0 2
    cmdSeedA := w.extractLsb' 3 64
    cmdSeedB := w.extractLsb' 67 64 }

/-- The command that 131 port bits present. -/
def decodeWord (w : BitVec 131) : Instr := decode (unpackPort w)

/-- The 131 port bits that present a command; `x` supplies the don't-care bits. -/
def encodeWord (x : BitVec 131) (i : Instr) : BitVec 131 := packPort (encode (unpackPort x) i)

/-- The command port that a table word stands for: the bits of `w` below `nbits`, every other bit 0, and so the operand
buses 0 where the table gives them no bits (DESIGN CHOICE, assumption log 5). -/
def tablePort (nbits w : Nat) : CmdPort := unpackPort (BitVec.ofNat 131 (w % 2 ^ nbits))

/-- The command the decoder reads from the table word `w` of `nbits` bits, its operand buses 0 where the table
gives them no bits.  `none` only for a number that needs more bits than the port has. -/
def decodeTableWord (nbits w : Nat) : Option Instr :=
  if w % 2 ^ nbits < 2 ^ 131 then some (decode (tablePort nbits w)) else none

end Sys2Proof
end

