-- ==== Sys2Proof/Config.lean ====
section
/-! DEFINITION. What the spec leaves open for one block: the value of each register before the first edge
with `rst = 1` (spec/70_reset_and_hazards.md R172, spec/93_implementation_defined.md U1).

Each is a free value: a constant with no body, so no proof can see what it is.  The parameters of R7 and R8
are fixed by the spec and are no configuration (R27); `F_CLK` is open and no rule reads it (R179). -/

namespace Sys2Proof.Config

/-- `word0` before the first reset: any value (R172; assumption log 6). -/
opaque powerOnWord0 : Word

/-- `word1` before the first reset: any value (R172; assumption log 6). -/
opaque powerOnWord1 : Word

/-- `seeded` before the first reset: any value (R172; assumption log 6). -/
opaque powerOnSeeded : Bool

/-- `rsp_valid` before the first reset: any value (R172; assumption log 6). -/
opaque powerOnRspValid : Bool

/-- `rsp_op` before the first reset: any value (R172; assumption log 6). -/
opaque powerOnRspOp : BitVec 2

/-- `rsp_data` before the first reset: any value (R172; assumption log 6). -/
opaque powerOnRspData : Word

end Sys2Proof.Config
end

