-- ==== Sys2Proof/Machine/State.lean ====
section
/-! DEFINITION. The state of the block (spec/10_state.md): the 196 bits of R31, and the model's own list of the
inputs the host presents at the edges to come. -/

namespace Sys2Proof.Machine

/-- The complete register set of R31, and `inputs`.  "The block has no hidden state beyond the registers of rules
R20, R22 and R23" (R30): no memory (R29), program counter (R25), flag (R26) or control register (R27). -/
structure State where
  /-- The first state word (R20). -/
  word0 : Word
  /-- The second state word (R20). -/
  word1 : Word
  /-- The status bit set by SEED and cleared by reset (R22). -/
  seeded : Bool
  /-- 1 for the cycle after an edge that performed a generating command (R23). -/
  rspValid : Bool
  /-- The `cmd_op` value of the last generating command (R23, R65). -/
  rspOp : BitVec 2
  /-- The last response: a raw word or a binary64 pattern (R23). -/
  rspData : Word
  /-- THE MODEL'S OWN (assumption log 1): what the host drives at each rising edge to come, the next one first.
  The spec gives the sequence to the host (R25, R67, R173). -/
  inputs : List Inputs
  deriving DecidableEq, Repr

/-- The faults of the block: NONE.  "No command raises an exception. The block has no cause codes, no fault status
and no error output" (R150).  Nothing raises a fault; with no constructor there is nothing to be safe or unsafe
about. -/
inductive Fault where
  deriving DecidableEq, Repr

/-- Why a command would have no meaning. -/
inductive Refusal where
  /-- A command with no meaning yet, by its mnemonic.  Raised by nothing: every command has its meaning.  It would
  be safe: the machine stops where the block goes on. -/
  | notModelled (mnemonic : String)
  deriving DecidableEq, Repr

/-- The state right after an edge with `rst = 1` (R32, R170), no input yet presented (assumption log 3). -/
def State.reset : State :=
  { word0 := 0x0000000000000000#64
    word1 := 0x0000000000000000#64
    seeded := false
    rspValid := false
    rspOp := 0b00#2
    rspData := 0x0000000000000000#64
    inputs := [] }

/-- The state before the first edge with `rst = 1`: every register holds a free value (R172, U1; assumption log 6),
and the host presents `ins`.  DESIGN CHOICE (assumption log 15): an edge with `rst = 0` that comes before the first
reset performs its command on these values, a point R172 leaves open. -/
def State.powerOn (ins : List Inputs) : State :=
  { word0 := Config.powerOnWord0
    word1 := Config.powerOnWord1
    seeded := Config.powerOnSeeded
    rspValid := Config.powerOnRspValid
    rspOp := Config.powerOnRspOp
    rspData := Config.powerOnRspData
    inputs := ins }

end Sys2Proof.Machine
end

