-- ==== Sys2Proof/Machine/Ops.lean ====
section
/-! DEFINITION. The named operations on the registers and on the input port, from which every meaning is built.

The block has no memory to read or write (R40), no exception to take (R150) and nothing to return from (R155), so
there is no operation for any of these. -/

namespace Sys2Proof.Machine

/-- `word0 <- a` and `word1 <- b`, together at one edge (R11, R44). -/
def State.setWords (s : State) (a b : Word) : State := { s with word0 := a, word1 := b }

/-- `respond(op, data)`: `rsp_valid <- 1`, `rsp_op <- op`, `rsp_data <- data` (R11, R23). -/
def State.respond (s : State) (op : BitVec 2) (data : Word) : State :=
  { s with rspValid := true, rspOp := op, rspData := data }

/-- `no_response()`: `rsp_valid <- 0`, `rsp_op` and `rsp_data` unchanged (R11, R23). -/
def State.noResponse (s : State) : State := { s with rspValid := false }

/-- An edge with `rst = 1`: every register takes its reset value of R32 (R170).  What the host presents at later
edges is no register and stays. -/
def State.resetRegisters (s : State) : State :=
  { s with
    word0 := 0x0000000000000000#64
    word1 := 0x0000000000000000#64
    seeded := false
    rspValid := false
    rspOp := 0b00#2
    rspData := 0x0000000000000000#64 }

/-- The host presents `ins` at the edges to come, the head at the next one (R25, R67). -/
def State.present (s : State) (ins : List Inputs) : State := { s with inputs := ins }

/-- What the port carries at the next rising edge, and the state with that edge taken off; `none` when no edge is
to come.  This is the block's whole fetch: "each command exists only in the cycle the host drives it" (R50). -/
def State.nextEdge (s : State) : Option (Inputs × State) :=
  match s.inputs with
  | [] => none
  | p :: rest => some (p, s.present rest)

end Sys2Proof.Machine
end

