-- ==== Sys2Proof/Machine/Arith.lean ====
section
/-! DEFINITION. `uint64_wraparound_arithmetic`: the unsigned 64-bit operations (spec/41_advance.md section 1).
Each is written as its rule gives it: exactly, on natural numbers, and narrowed to 64 bits at the end. -/

namespace Sys2Proof.Machine

/-- `a XOR b` (R101). -/
def xor64 (a b : Word) : Word := a ^^^ b

/-- `a AND b` (R105). -/
def and64 (a b : Word) : Word := a &&& b

/-- `shl64(a, k) = (a · 2^k) mod 2^64` (R102); the discarded bits raise nothing. -/
def shl64 (a : Word) (k : Nat) : Word := BitVec.ofNat 64 (a.toNat * 2 ^ k)

/-- `lshr64(a, k) = floor(a / 2^k)` (R103): logical, zero fill. -/
def lshr64 (a : Word) (k : Nat) : Word := BitVec.ofNat 64 (a.toNat / 2 ^ k)

/-- `add64(a, b) = (a + b) mod 2^64` (R104); the carry is discarded. -/
def add64 (a b : Word) : Word := BitVec.ofNat 64 (a.toNat + b.toNat)

/-- `v[hi:lo] = floor(v / 2^lo) mod 2^(hi-lo+1)` (R9), as a number. -/
def bitField (v : Word) (hi lo : Nat) : Nat := v.toNat / 2 ^ lo % 2 ^ (hi - lo + 1)

end Sys2Proof.Machine
end

