-- ==== Sys2Proof/Machine/Transition.lean ====
section
/-! DEFINITION. `xorshift128_prng_core`: the transition of the state words (spec/41_advance.md section 2), and its
inverse (R113). -/

namespace Sys2Proof.Machine

/-- What `xs_next` returns: `(word0', word1', raw)` (R108). -/
structure XsNext where
  word0 : Word
  word1 : Word
  raw : Word
  deriving DecidableEq, Repr

/-- `xs_next(word0, word1)` (R108), line by line.  `s1` is the old `word0` and `s0` the old `word1`; the right shift
by 17 applies to `t`, and `raw` adds the new and the old `word1`. -/
def xsNext (word0 word1 : Word) : XsNext :=
  let s1 := word0
  let s0 := word1
  let t := xor64 s1 (shl64 s1 23)
  let w1 := xor64 (xor64 (xor64 t s0) (lshr64 t 17)) (lshr64 s0 26)
  { word0 := s0, word1 := w1, raw := add64 w1 s0 }

/-- The inverse R113 gives for the state part of `xs_next`: from `(word0', word1')` back to `(word0, word1)`. -/
def xsPrev (word0' word1' : Word) : Word × Word :=
  let s0 := word0'
  let y := xor64 (xor64 word1' s0) (lshr64 s0 26)
  let t := xor64 (xor64 (xor64 y (lshr64 y 17)) (lshr64 y 34)) (lshr64 y 51)
  let s1 := xor64 (xor64 t (shl64 t 23)) (shl64 t 46)
  (s1, s0)

end Sys2Proof.Machine
end

