-- ==== Sys2Proof/Machine/Advance.lean ====
section
/-! DEFINITION. ADVANCE (spec/41_advance.md section 3). -/

namespace Sys2Proof.Machine

/-- ADVANCE (R109): one transition from the words before the edge, and `respond(0b10, raw)`; both words and the
response are written together (R110). -/
def execAdvance (s : State) : Host.Outcome State Fault Refusal :=
  let n := xsNext s.word0 s.word1
  .next ((s.setWords n.word0 n.word1).respond 0b10#2 n.raw)

end Sys2Proof.Machine
end

