-- ==== Sys2Proof/Machine/Flags.lean ====
section
/-! DEFINITION. Flags and status.  "The block has no flags and no condition codes" (R26): `add64` discards its
carry (R104) and the conversion sets no floating-point flag (R136).  The one status bit is `seeded` (R22). -/

namespace Sys2Proof.Machine

/-- `seeded <- 1`, by SEED (R22, R82).  Reset clears the bit (R170); nothing else writes it. -/
def State.markSeeded (s : State) : State := { s with seeded := true }

end Sys2Proof.Machine
end

