-- ==== Sys2Proof/Machine/Operands.lean ====
section
/-! DEFINITION. Operand assembly (spec/30_encoding.md R62).  SEED alone has operands; the generating commands read
`word0` and `word1`; no operand names a register (R24) or an address (R45). -/

namespace Sys2Proof.Machine

/-- `initialA = cmd_seed_a[63:0]`: "taken from the buses without change" (R62). -/
def initialA (cmdSeedA : Word) : Word := cmdSeedA

/-- `initialB = cmd_seed_b[63:0]`: "taken from the buses without change" (R62). -/
def initialB (cmdSeedB : Word) : Word := cmdSeedB

end Sys2Proof.Machine
end

