-- ==== Sys2Proof/Machine/Construction.lean ====
section
/-! DEFINITION. The construction family: IDLE, NOP and SEED (spec/40_construction.md). -/

namespace Sys2Proof.Machine

/-- IDLE (R80): `no_response()`. -/
def execIdle (s : State) : Host.Outcome State Fault Refusal := .next s.noResponse

/-- NOP (R81): "exactly as IDLE". -/
def execNop (s : State) : Host.Outcome State Fault Refusal := .next s.noResponse

/-- SEED (R82): `word0 <- initialA`, `word1 <- initialB`, `seeded <- 1`, `no_response()`.  It checks nothing
(R83), and leaves `rsp_op` and `rsp_data` (R85). -/
def execSeed (a b : Word) (s : State) : Host.Outcome State Fault Refusal :=
  .next ((s.setWords (initialA a) (initialB b)).markSeeded).noResponse

end Sys2Proof.Machine
end

