-- ==== Sys2Proof/Machine/Binary64.lean ====
section
/-! DEFINITION. `mantissa_extraction_to_double`: the low 53 bits of a raw word, and the binary64 pattern of that
number divided by 2^53 (spec/42_next_double.md sections 1 and 2). -/

namespace Sys2Proof.Machine

/-- `MASK53 = 2^53 - 1` (R130). -/
def mask53 : Word := 0x001FFFFFFFFFFFFF#64

/-- `m = raw AND MASK53` (R131): the high 11 bits are discarded. -/
def mantissa (raw : Word) : Word := and64 raw mask53

/-- The index of the highest 1 bit of `v` among bits `n-1 .. 0`; 0 when there is none. -/
def topBitBelow : Nat → Word → Nat
  | 0, _ => 0
  | n + 1, v => if v.getLsbD n then n else topBitBelow n v

/-- `p` of R134: the index of the highest 1 bit of `m`. -/
def topBit (m : Word) : Nat := topBitBelow 64 m

/-- `E = 970 + p` of R134: the biased exponent `1023 + (p - 53)`. -/
def biasedExponent (m : Word) : Nat := 970 + topBit m

/-- `F` of R134: the leading 1 dropped, the rest left-aligned to 52 bits. -/
def fraction (m : Word) : Word := and64 (shl64 m (52 - topBit m)) 0x000FFFFFFFFFFFFF#64

/-- `to_binary64(m)` for `0 ≤ m < 2^53` (R134): `{0 (1 bit), E (11 bits), F (52 bits)}`, and +0.0 for `m = 0`. -/
def toBinary64 (m : Word) : Word :=
  if m = 0x0000000000000000#64 then 0x0000000000000000#64
  else 0b0#1 ++ BitVec.ofNat 11 (biasedExponent m) ++ (fraction m).extractLsb' 0 52

/-- The number a binary64 pattern denotes, `none` for an infinity or a NaN: sign at bit 63, biased exponent at bits
62:52 with bias 1023, fraction at bits 51:0 with an implicit leading 1 for a normal number (R43, G1; PRESUMED,
assumption log 8): `(1 + f/2^52) · 2^(e - 1023)`, or `f/2^52 · 2^(-1022)` for `e = 0`.  No command computes it (R28); statements about the value of a response are made with it. -/
def binary64Value (d : Word) : Option Rat :=
  let e := bitField d 62 52
  let f := bitField d 51 0
  let magnitude : Rat :=
    if e = 0 then (f : Rat) / 2 ^ 52 * 2 ^ (-1022 : Int)
    else (1 + (f : Rat) / 2 ^ 52) * 2 ^ ((e : Int) - 1023)
  if e = 2047 then none else some (if bitField d 63 63 = 1 then -magnitude else magnitude)

end Sys2Proof.Machine
end

