-- ==== Sys2Proof/Machine/NextDouble.lean ====
section
/-! DEFINITION. NEXT_DOUBLE (spec/42_next_double.md section 3). -/

namespace Sys2Proof.Machine

/-- NEXT_DOUBLE (R137): one transition, as ADVANCE, and `respond(0b11, to_binary64(raw AND MASK53))`. -/
def execNextDouble (s : State) : Host.Outcome State Fault Refusal :=
  let n := xsNext s.word0 s.word1
  .next ((s.setWords n.word0 n.word1).respond 0b11#2 (toBinary64 (mantissa n.raw)))

end Sys2Proof.Machine
end

