-- ==== Sys2Proof/Machine/Dispatch.lean ====
section
/-! DEFINITION. One arm per command: the meaning each command has at an edge with `rst = 0`. -/

namespace Sys2Proof.Machine

def exec (i : Instr) (s : State) : Host.Outcome State Fault Refusal :=
  match i with
  -- spec/40_construction.md
  | .idle => Sys2Proof.Machine.execIdle s
  | .nop => Sys2Proof.Machine.execNop s
  | .seed a b => Sys2Proof.Machine.execSeed a b s
  -- spec/41_advance.md
  | .advance => Sys2Proof.Machine.execAdvance s
  -- spec/42_next_double.md
  | .nextDouble => Sys2Proof.Machine.execNextDouble s

end Sys2Proof.Machine
end

