-- ==== Sys2Proof/Machine/Cycle.lean ====
section
/-! DEFINITION. One rising edge (spec/70_reset_and_hazards.md R170). -/

namespace Sys2Proof.Machine

/-- R170's `step(Rg, In)`: with `rst = 1` every register takes its reset value and the command is lost; with
`rst = 0` the decoded command is performed.  Reset beats any command (R152).  That this holds before the first reset too
is a DESIGN CHOICE (assumption log 15). -/
def edge (p : Inputs) (s : State) : Host.Outcome State Fault Refusal :=
  if p.rst then .next s.resetRegisters else exec (decode p.cmd) s

/-- The state when no edge comes: "While `clk` does not toggle, every register holds its value, and the next edge
continues from it" (R162). -/
def clockStopped (s : State) : Host.Outcome State Fault Refusal := .next s

/-- The edge a table word stands for: `rst = 0`, and its command on the port. -/
def tableEdge (nbits w : Nat) : Inputs := { rst := false, cmd := tablePort nbits w }

/-- `s` with `p` on the port at the next edge, in place of what the host would have driven there. -/
def State.presentNext (s : State) (p : Inputs) : State := s.present (p :: s.inputs.tail)

end Sys2Proof.Machine
end

