-- ==== Sys2Proof/Machine/Step.lean ====
section
/-! DEFINITION. The step of the machine: the next rising edge. -/

namespace Sys2Proof.Machine

/-- One step: the next edge with the inputs the host presents there.  When the list of inputs has ended the clock has
stopped and every register holds (R162; DESIGN CHOICE, assumption log 2).

The step asks nothing of the past: before the first reset, too, an edge with `rst = 0` performs its command on whatever
the registers hold, as from `State.powerOn`.  R172 leaves that open (DESIGN CHOICE, assumption log 15). -/
def step (s : State) : Host.Outcome State Fault Refusal :=
  match s.nextEdge with
  | none => clockStopped s
  | some (p, s') => edge p s'

/-- `s` with the command of a table word on the port at the next edge (assumption log 4): exactly that command runs
next. -/
def State.withFetchWord (s : State) (nbits w : Nat) : State := s.presentNext (tableEdge nbits w)

end Sys2Proof.Machine
end

