-- ==== Sys2Proof/Listing.lean ====
section
/-! DEFINITION. The statements of a command listing (spec/30_encoding.md R66), as a tree, and the reasons the
assembler refuses a line.  A listing is the host's program (R67), no part of the block's state.
The assembler itself is in Sys2Proof/Machine/Assembler.lean. -/

namespace Sys2Proof

/-- `stmt` of R66's grammar.  A literal is kept as the number written: it is checked, and never reduced (R66). -/
inductive Stmt where
  /-- `RESET`: not a command, but the host driving `rst = 1` for one edge. -/
  | reset
  /-- `IDLE`, also a blank line or a line with a comment only. -/
  | idle
  /-- `NOP`. -/
  | nop
  /-- `ADVANCE`. -/
  | advance
  /-- `NEXT_DOUBLE`. -/
  | nextDouble
  /-- `SEED a, b`. -/
  | seed (a b : Nat)
  deriving DecidableEq, Repr

/-- Why a line of a listing is refused.  Each is raised by the assembler alone, before the block sees anything,
and is safe: a line it refuses has no meaning (D15). -/
inductive ListingError where
  /-- The line begins with no mnemonic of R66.  Raised by `parseLine`; safe. -/
  | unknownMnemonic
  /-- Text other than a comment follows a whole statement.  Raised by `parseLine`; safe. -/
  | trailingText
  /-- SEED is not followed by two operands with one comma between them.  Raised by `parseLine`; safe. -/
  | operandCount
  /-- An operand of SEED is no literal of R66.  Raised by `parseLine`; safe. -/
  | badLiteral
  /-- A literal of 2^64 or more (R66, U4).  Raised by `stmtInputs`; safe. -/
  | literalTooWide
  deriving DecidableEq, Repr

end Sys2Proof
end

