-- ==== Sys2Proof/WellFormed.lean ====
section
/-! DEFINITION. Well-formedness.  A command needs no check: its operands are words by their type, and "SEED
checks nothing. Every pair of words is accepted" (R83).  A statement of a listing has one check per literal
(R66). -/

namespace Sys2Proof

/-- Every command the type can hold is one the port can carry (R62, R64, R83). -/
def Instr.wf : Instr → Bool
  | .idle => true
  | .nop => true
  | .seed _ _ => true
  | .advance => true
  | .nextDouble => true

/-- R66's bound on a literal: "value must be < 2^64". -/
def literalOk (n : Nat) : Bool := decide (n < 2 ^ 64)

/-- A statement is well formed when each of its literals is in range (R66). -/
def Stmt.wf : Stmt → Bool
  | .reset => true
  | .idle => true
  | .nop => true
  | .advance => true
  | .nextDouble => true
  | .seed a b => literalOk a && literalOk b

end Sys2Proof
end

