-- ==== Sys2Proof/Machine/Assembler.lean ====
section
/-! DEFINITION. The assembler of command listings (spec/30_encoding.md R66, R67): from text to the inputs of each
edge.  It is the host's tool, and the block never sees a listing.

R66 gives the grammar of a line over its words.  How characters make words is a DESIGN CHOICE (assumption log 9):
a space, a tab or a carriage return separates, a line feed ends a line, and a hexadecimal digit is of either case. -/

namespace Sys2Proof.Machine

/-- A character that separates words. -/
def isBlank (c : Char) : Bool := c == ' ' || c == '\t' || c == '\r'

/-- A character of a mnemonic. -/
def isMnemonicChar (c : Char) : Bool := !isBlank c && c != ','

/-- The text without the blanks at its start. -/
def trimStart (l : List Char) : List Char := l.dropWhile isBlank

/-- The text without the blanks at either end. -/
def trim (l : List Char) : List Char := (trimStart (trimStart l).reverse).reverse

/-- The text before a comment: `line := [stmt] [';' comment]`. -/
def dropComment (l : List Char) : List Char := l.takeWhile (fun c => c != ';')

/-- The value of a hexadecimal digit of either case. -/
def hexDigit (c : Char) : Option Nat :=
  let n := c.toNat
  if 48 ≤ n && n ≤ 57 then some (n - 48)
  else if 65 ≤ n && n ≤ 70 then some (n - 55)
  else if 97 ≤ n && n ≤ 102 then some (n - 87)
  else none

/-- The value of a digit in a base up to sixteen. -/
def digitValue (base : Nat) (c : Char) : Option Nat :=
  match hexDigit c with
  | some d => if d < base then some d else none
  | none => none

/-- The digits of a number, most significant first, added to `acc`. -/
def digitsValue (base : Nat) : Nat → List Char → Option Nat
  | acc, [] => some acc
  | acc, c :: cs =>
    match digitValue base c with
    | some d => digitsValue base (acc * base + d) cs
    | none => none

/-- `literal := decimal | '0x' hex` (R66).  Its size is checked later. -/
def parseLiteral (l : List Char) : Except ListingError Nat :=
  let value :=
    match l with
    | [] => none
    | ['0', 'x'] => none
    | '0' :: 'x' :: hex => digitsValue 16 0 hex
    | decimal => digitsValue 10 0 decimal
  match value with
  | some n => .ok n
  | none => .error .badLiteral

/-- The upper-case form of a letter; "Mnemonics are case-insensitive" (R66). -/
def upper (c : Char) : Char := if 97 ≤ c.toNat && c.toNat ≤ 122 then Char.ofNat (c.toNat - 32) else c

/-- The operands of SEED: `literal ',' literal`. -/
def parseSeed (l : List Char) : Except ListingError Stmt :=
  let first := l.takeWhile (fun c => c != ',')
  match l.dropWhile (fun c => c != ',') with
  | [] => .error .operandCount
  | _ :: second =>
    if second.contains ',' then .error .operandCount
    else
      match parseLiteral (trim first), parseLiteral (trim second) with
      | .ok a, .ok b => .ok (.seed a b)
      | .error e, _ => .error e
      | .ok _, .error e => .error e

/-- A statement with no operand: nothing may follow it. -/
def plainStmt (st : Stmt) (rest : List Char) : Except ListingError Stmt :=
  if rest.isEmpty then .ok st else .error .trailingText

/-- One line of a listing (R66).  "A blank line or a comment-only line is IDLE." -/
def parseLine (l : List Char) : Except ListingError Stmt :=
  let body := trim (dropComment l)
  let rest := trim (body.dropWhile isMnemonicChar)
  match (body.takeWhile isMnemonicChar).map upper with
  | [] => plainStmt .idle rest
  | ['R', 'E', 'S', 'E', 'T'] => plainStmt .reset rest
  | ['I', 'D', 'L', 'E'] => plainStmt .idle rest
  | ['N', 'O', 'P'] => plainStmt .nop rest
  | ['A', 'D', 'V', 'A', 'N', 'C', 'E'] => plainStmt .advance rest
  | ['N', 'E', 'X', 'T', '_', 'D', 'O', 'U', 'B', 'L', 'E'] => plainStmt .nextDouble rest
  | ['S', 'E', 'E', 'D'] => parseSeed rest
  | _ => .error .unknownMnemonic

/-- The lines of a text: each line feed ends one. -/
def splitLines : List Char → List (List Char)
  | [] => []
  | c :: cs =>
    if c == '\n' then [] :: splitLines cs
    else
      match splitLines cs with
      | [] => [[c]]
      | l :: ls => (c :: l) :: ls

/-- The command a statement presents; `none` for `RESET`, which "is not a command" (R66). -/
def stmtCommand : Stmt → Option Instr
  | .reset => none
  | .idle => some .idle
  | .nop => some .nop
  | .advance => some .advance
  | .nextDouble => some .nextDouble
  | .seed a b => some (.seed (BitVec.ofNat 64 a) (BitVec.ofNat 64 b))

/-- The inputs of a statement's edge (R67's table); `x` supplies the don't-care inputs.  "A literal of 2^64 or more
is refused by the assembler. It is not reduced" (R66). -/
def stmtInputs (x : CmdPort) (st : Stmt) : Except ListingError Inputs :=
  if st.wf then
    match stmtCommand st with
    | none => .ok { rst := true, cmd := x }
    | some i => .ok { rst := false, cmd := encode x i }
  else .error .literalTooWide

/-- The statements of a text, or why its first bad line is refused. -/
def parseLines : List (List Char) → Except ListingError (List Stmt)
  | [] => .ok []
  | l :: ls =>
    match parseLine l, parseLines ls with
    | .ok st, .ok sts => .ok (st :: sts)
    | .error e, _ => .error e
    | .ok _, .error e => .error e

/-- The inputs of a list of statements; `x k` supplies the don't-care inputs of the edge that has `k` after it. -/
def stmtsInputs (x : Nat → CmdPort) : List Stmt → Except ListingError (List Inputs)
  | [] => .ok []
  | st :: sts =>
    match stmtInputs (x sts.length) st, stmtsInputs x sts with
    | .ok p, .ok ps => .ok (p :: ps)
    | .error e, _ => .error e
    | .ok _, .error e => .error e

/-- A command listing as the inputs the host drives, "one line per clock edge" (R66). -/
def assemble (x : Nat → CmdPort) (text : List Char) : Except ListingError (List Inputs) :=
  match parseLines (splitLines text) with
  | .ok sts => stmtsInputs x sts
  | .error e => .error e

/-- A statement in the text form of R66, its literals in decimal. -/
def renderStmt : Stmt → List Char
  | .reset => ['R', 'E', 'S', 'E', 'T']
  | .idle => ['I', 'D', 'L', 'E']
  | .nop => ['N', 'O', 'P']
  | .advance => ['A', 'D', 'V', 'A', 'N', 'C', 'E']
  | .nextDouble => ['N', 'E', 'X', 'T', '_', 'D', 'O', 'U', 'B', 'L', 'E']
  | .seed a b =>
    ['S', 'E', 'E', 'D', ' '] ++ Nat.toDigits 10 a ++ [',', ' '] ++ Nat.toDigits 10 b

end Sys2Proof.Machine
end

