-- ==== Sys2Proof/Machine/Blocks.lean ====
section
/-! DEFINITION. Several blocks beside each other (spec/60_exceptions.md R159): each has its own state, its own port
and its own edges. -/

namespace Sys2Proof.Machine

/-- The next edge of block `k` of a list of blocks (assumption log 12); "Blocks have no identifiers and no
inter-block signals" (R159), so `k` is only a place in the list. -/
def stepBlock (k : Nat) (blocks : List State) : Host.Outcome (List State) Fault Refusal :=
  match blocks[k]? with
  | none => .next blocks
  | some s =>
    match step s with
    | .next t => .next (blocks.set k t)
    | .fault f => .fault f
    | .refused r => .refused r

end Sys2Proof.Machine
end

