-- ==== Sys2Proof/Machine/Observe.lean ====
section
/-! DEFINITION. What can be seen of the block: its outputs after each edge (spec/00_scope.md R13), and runs of many
edges. -/

namespace Sys2Proof.Machine

/-- The output ports: each is driven straight from the register of its name (R60); the state words are not outputs
(R163). -/
def State.outputs (s : State) : Outputs :=
  { rspValid := s.rspValid, rspOp := s.rspOp, rspData := s.rspData, seededO := s.seeded }

/-- `n` steps, to the first that answers no next state. -/
def run : Nat → State → Host.Outcome State Fault Refusal
  | 0, s => .next s
  | n + 1, s =>
    match step s with
    | .next t => run n t
    | .fault f => .fault f
    | .refused r => .refused r

/-- The state after the host has presented `ins`, one entry per edge, to the registers of `s`. -/
def after (ins : List Inputs) (s : State) : Host.Outcome State Fault Refusal :=
  run ins.length (s.present ins)

/-- R13's observation of `n` steps: the outputs after each. -/
def observe : Nat → State → List Outputs
  | 0, _ => []
  | n + 1, s =>
    match step s with
    | .next t => t.outputs :: observe n t
    | .fault _ => []
    | .refused _ => []

/-- R13's observation while the host presents `ins`. -/
def observed (ins : List Inputs) (s : State) : List Outputs := observe ins.length (s.present ins)

end Sys2Proof.Machine
end

