-- ==== Sys2Proof/Machine/Transaction.lean ====
section
/-! DEFINITION. The transaction level of spec/00_scope.md R12: `exec(S, c) = (S', r)`.  It is the spec's second
description of the same block, and is written apart from the cycle level's meanings so that their agreement is a
statement. -/

namespace Sys2Proof.Machine

/-- `S = (word0, word1, seeded)` of R12. -/
structure TxnState where
  word0 : Word
  word1 : Word
  seeded : Bool
  deriving DecidableEq, Repr

/-- A response of R12: "a pair `(op, data)` where `data` is a word". -/
structure Response where
  op : BitVec 2
  data : Word
  deriving DecidableEq, Repr

/-- The transaction-level `exec` of R12: next state and optional response of one command. -/
def txnExec (S : TxnState) : Instr → TxnState × Option Response
  | .idle => (S, none)
  | .nop => (S, none)
  | .seed a b => ({ word0 := a, word1 := b, seeded := true }, none)
  | .advance =>
    let n := xsNext S.word0 S.word1
    ({ S with word0 := n.word0, word1 := n.word1 }, some { op := 0b10#2, data := n.raw })
  | .nextDouble =>
    let n := xsNext S.word0 S.word1
    ({ S with word0 := n.word0, word1 := n.word1 },
      some { op := 0b11#2, data := toBinary64 (mantissa n.raw) })

/-- One edge at transaction level: reset (R170), or the decoded command. -/
def txnEdge (S : TxnState) (p : Inputs) : TxnState × Option Response :=
  if p.rst then ({ word0 := 0, word1 := 0, seeded := false }, none) else txnExec S (decode p.cmd)

/-- The transactions of a sequence of edges, in the order of the edges (R47): the last state, and each edge's
response. -/
def txnRun : TxnState → List Inputs → TxnState × List (Option Response)
  | S, [] => (S, [])
  | S, p :: rest =>
    let r := txnEdge S p
    let q := txnRun r.1 rest
    (q.1, r.2 :: q.2)

/-- The transaction-level state that a machine state holds. -/
def State.txn (s : State) : TxnState := { word0 := s.word0, word1 := s.word1, seeded := s.seeded }

/-- The response the outputs show: "The values in `rsp_valid`, `rsp_op` and `rsp_data` after a generating command's
edge" (R15). -/
def responseOf (o : Outputs) : Option Response :=
  if o.rspValid then some { op := o.rspOp, data := o.rspData } else none

end Sys2Proof.Machine
end

