-- ==== Sys2Proof/Safety.lean ====
section
/-! DEFINITION. The terms claims use: the invariant of the machine, and what a sequence of inputs performs. -/

namespace Sys2Proof.Machine

/-- A binary64 pattern R135 allows: +0.0, or sign 0 and biased exponent in `[970, 1022]`. -/
def isUnitPattern (d : Word) : Bool :=
  d == 0 || (bitField d 63 63 == 0 && 970 ≤ bitField d 62 52 && bitField d 62 52 ≤ 1022)

/-- The invariant of the registers:
* `rsp_op` never takes the value `01` (R65);
* `rsp_op = 00` only while no response has been given, so the response registers hold their reset values (R65, R32);
* while `seeded = 0` the words are the reset words and every response given was 0 (R22, R32, R112);
* `rsp_data` of a NEXT_DOUBLE response is a pattern of R135;
* a response on show is the one R108, R109 and R137 give: the sum of the new and the old `word1`, the old `word1`
  being the new `word0` (R111), raw or converted. -/
abbrev MachineInv (s : State) : Prop :=
  s.rspOp ≠ 0b01#2 ∧
  (s.rspOp = 0b00#2 → s.rspValid = false ∧ s.rspData = 0) ∧
  (s.seeded = false → s.word0 = 0 ∧ s.word1 = 0 ∧ s.rspData = 0) ∧
  (s.rspOp = 0b11#2 → isUnitPattern s.rspData = true) ∧
  (s.rspValid = true → s.rspOp = 0b10#2 → s.rspData = s.word1 + s.word0) ∧
  (s.rspValid = true → s.rspOp = 0b11#2 →
    s.rspData = toBinary64 ((s.word1 + s.word0) &&& 0x001FFFFFFFFFFFFF#64))

/-- An edge that performs a generating command (R15): `rst = 0` and ADVANCE or NEXT_DOUBLE on the port. -/
def generates (p : Inputs) : Bool := !p.rst && (decode p.cmd).isGenerating

/-- An edge that performs SEED. -/
def seeds (p : Inputs) : Bool := !p.rst && p.cmd.cmdValid && p.cmd.cmdOp == 0b01#2

end Sys2Proof.Machine
end

