-- ==== Sys2Proof/Certificates/Slice0/Obligations.lean ====
section
/-! DEFINITION. The statements for the provers.  Each docstring names the rule of spec/ it formalises.

A literal port value is written `⟨cmd_valid, cmd_op, cmd_seed_a, cmd_seed_b⟩`, and one edge `⟨rst, port⟩`.  A statement
that gives a whole next state, `{ s with … }`, states its frame: every register it does not name keeps its value. -/

open Sys2Proof Sys2Proof.Machine

/-! ### Reset, one edge, and runs -/

/-- R170: at an edge with `rst = 1` every register takes its reset value, whatever command is presented; at an edge with
`rst = 0` the decoded command is performed. -/
def Obligations.EdgeResetsOrPerformsCommand : Prop :=
  ∀ (s : State) (c : CmdPort) (rest : List Inputs),
    step { s with inputs := ⟨true, c⟩ :: rest } =
      .next { word0 := 0, word1 := 0, seeded := false, rspValid := false, rspOp := 0b00#2, rspData := 0,
              inputs := rest } ∧
    step { s with inputs := ⟨false, c⟩ :: rest } = exec (decode c) { s with inputs := rest }

/-- The six reset values of R32.  `inputs`, the model's own field, is no register of the spec and is not spoken of. -/
def Obligations.ResetStateHoldsSpecResetValues : Prop :=
  State.reset.word0 = 0 ∧ State.reset.word1 = 0 ∧ State.reset.seeded = false ∧ State.reset.rspValid = false ∧
  State.reset.rspOp = 0b00#2 ∧ State.reset.rspData = 0

/-- From registers that hold the free values of R172, one edge with `rst = 1` leaves the reset values, whatever the free
values are. -/
def Obligations.PowerOnThenResetIsDetermined : Prop :=
  ∀ (c : CmdPort) (rest : List Inputs),
    step (State.powerOn (⟨true, c⟩ :: rest)) = .next { State.reset with inputs := rest }

/-- R171: after one or more edges with `rst = 1` the registers hold their reset values, every command presented there is
lost, the first edge with `rst = 0` performs its command on the reset state, and a generating command there returns 0.
`State.reset` also says that no input is left (assumption log 3), which is so here because every input presented has been
taken. -/
def Obligations.HeldResetThenGeneratingReturnsZero : Prop :=
  ∀ (s : State) (c : CmdPort) (cs : List CmdPort) (a b : Word),
    after ((c :: cs).map (Inputs.mk true)) s = .next State.reset ∧
    (∀ d : CmdPort, after ((c :: cs).map (Inputs.mk true) ++ [⟨false, d⟩]) s = exec (decode d) State.reset) ∧
    (∃ t, after ((c :: cs).map (Inputs.mk true) ++ [⟨false, ⟨true, 0b10#2, a, b⟩⟩]) s = .next t ∧
      t.rspValid = true ∧ t.rspOp = 0b10#2 ∧ t.rspData = 0) ∧
    (∃ t, after ((c :: cs).map (Inputs.mk true) ++ [⟨false, ⟨true, 0b11#2, a, b⟩⟩]) s = .next t ∧
      t.rspValid = true ∧ t.rspOp = 0b11#2 ∧ t.rspData = 0)

/-- The model's reading of R162 (DESIGN CHOICE, assumption log 2): where the list of edges to come has ended, the clock
has stopped and a step changes nothing. -/
def Obligations.StoppedClockHoldsEveryRegister : Prop :=
  ∀ s : State, s.inputs = [] → step s = .next s

/-- R150, for the commands: every command completes, with no fault and no refusal.  The other clauses rest on the model's
choices: every step and every run complete past the end of the list of edges only because the clock has stopped there
(DESIGN CHOICE, assumption log 2), and that the type of faults is empty is the model's reading (DEDUCED, assumption
log 13). -/
def Obligations.EveryCommandAndRunCompletes : Prop :=
  (∀ (i : Instr) (s : State), ∃ t, exec i s = .next t ∧ t.inputs = s.inputs) ∧
  (∀ s : State, ∃ t, step s = .next t) ∧
  (∀ (n : Nat) (s : State), ∃ t, run n s = .next t) ∧
  (Fault → False)

/-- R47: commands are performed one per edge in the order of the edges, each on the state left by all earlier ones and by
no later one: a run is the fold of `exec` over its commands. -/
def Obligations.RunsComposeInEdgeOrder : Prop :=
  (∀ (s : State) (early late : List Inputs),
    ∃ t, after early s = .next t ∧ after (early ++ late) s = after late t ∧
      observed (early ++ late) s = observed early s ++ observed late t) ∧
  (∀ (s : State) (c : CmdPort) (late : List Inputs),
    ∃ t, exec (decode c) s = .next t ∧ after (⟨false, c⟩ :: late) s = after late t)

/-! ### Decode and encode -/

/-- R63: the command each control word selects, and that `rst = 1` ignores the command inputs. -/
def Obligations.DecodeTableSelectsCommand : Prop :=
  (∀ (op : BitVec 2) (a b : Word), decode ⟨false, op, a, b⟩ = .idle) ∧
  (∀ a b : Word,
    decode ⟨true, 0b00#2, a, b⟩ = .nop ∧
    decode ⟨true, 0b01#2, a, b⟩ = .seed a b ∧
    decode ⟨true, 0b10#2, a, b⟩ = .advance ∧
    decode ⟨true, 0b11#2, a, b⟩ = .nextDouble) ∧
  (∀ (s : State) (c d : CmdPort) (rest : List Inputs),
    step { s with inputs := ⟨true, c⟩ :: rest } = step { s with inputs := ⟨true, d⟩ :: rest })

/-- R64: each of the eight control words belongs to exactly one row of the table, that of the command decoded; the
operand buses change no command other than SEED, and `cmd_op` does not change IDLE. -/
def Obligations.EveryControlWordSelectsExactlyOneCommand : Prop :=
  (∀ cw : BitVec 3, (opcodeTable.filter fun r => r.admits cw).length = 1) ∧
  (∀ p : CmdPort, ∃ r ∈ opcodeTable, r.admits (controlWord p) = true ∧ r.mnemonic = (decode p).mnemonic) ∧
  (∀ (v : Bool) (op : BitVec 2) (a b c d : Word),
    (decode ⟨v, op, a, b⟩).mnemonic = (decode ⟨v, op, c, d⟩).mnemonic ∧
    ((decode ⟨v, op, a, b⟩).mnemonic ≠ "SEED" → decode ⟨v, op, a, b⟩ = decode ⟨v, op, c, d⟩)) ∧
  (∀ (op op' : BitVec 2) (a b : Word), decode ⟨false, op, a, b⟩ = decode ⟨false, op', a, b⟩)

/-- Control words written out bit by bit from R63's table, with operand buses, and the command each stands for.  In the
clauses about `decodeTableWord`, where CW stands in a word, and that the operand buses the word gives no bits are 0, so
that 101 in 8 bits is SEED 0, 0, is the model's choice (DESIGN CHOICE, assumption log 5). -/
def Obligations.WrittenOutControlWordsDecode : Prop :=
  decodeTableWord 8 0b000 = some .idle ∧ decodeTableWord 8 0b011 = some .idle ∧
  decodeTableWord 8 0b100 = some .nop ∧ decodeTableWord 8 0b101 = some (.seed 0 0) ∧
  decodeTableWord 8 0b110 = some .advance ∧ decodeTableWord 8 0b111 = some .nextDouble ∧
  decode ⟨true, 0b01#2, 0x3D3C3EE388B1C5FC#64, 0x7266AD485C03AB4D#64⟩ =
    .seed 0x3D3C3EE388B1C5FC#64 0x7266AD485C03AB4D#64

/-- Decode and encode agree on the whole port, for every command, every operand and every value of the don't-care bits:
no bit of an encoding is dropped, and encoding what was decoded gives every bit back.  How the port is laid out as 131
bits is the model's choice (DESIGN CHOICE, assumption log 5). -/
def Obligations.PackedPortDecodeEncodeRoundTrip : Prop :=
  (∀ (x : BitVec 131) (i : Instr), decodeWord (encodeWord x i) = i) ∧
  (∀ w : BitVec 131, encodeWord w (decodeWord w) = w) ∧
  (∀ (x : BitVec 131) (a b : Word),
    (encodeWord x (.seed a b)).extractLsb' 0 3 = 0b101#3 ∧
    (encodeWord x (.seed a b)).extractLsb' 3 64 = a ∧
    (encodeWord x (.seed a b)).extractLsb' 67 64 = b)

/-- A table word put on the port for the next edge runs exactly the command the decoder reads from it.  How a word is
placed and laid out is the model's choice (DESIGN CHOICE, assumption logs 4 and 5). -/
def Obligations.FetchedTableWordRunsItsCommand : Prop :=
  ∀ (s : State) (nbits w : Nat) (i : Instr), decodeTableWord nbits w = some i →
    step (s.withFetchWord nbits w) = exec i { s with inputs := s.inputs.tail }

/-! ### The commands -/

/-- R80: IDLE clears `rsp_valid` and changes no other register, whatever `cmd_op` and the operand buses carry. -/
def Obligations.IdleOnlyClearsResponseValid : Prop :=
  ∀ s : State,
    exec .idle s = .next { s with rspValid := false } ∧
    ∀ (op : BitVec 2) (a b : Word) (rest : List Inputs),
      step { s with inputs := ⟨false, ⟨false, op, a, b⟩⟩ :: rest } =
        .next { s with rspValid := false, inputs := rest }

/-- R81: NOP clears `rsp_valid` and changes no other register; it has IDLE's effect. -/
def Obligations.NopHasTheEffectOfIdle : Prop :=
  ∀ s : State,
    exec .nop s = .next { s with rspValid := false } ∧
    exec .nop s = exec .idle s ∧
    ∀ (a b : Word) (rest : List Inputs),
      step { s with inputs := ⟨false, ⟨true, 0b00#2, a, b⟩⟩ :: rest } =
        .next { s with rspValid := false, inputs := rest }

/-- R82, R85: SEED loads both words from its operands, sets `seeded`, clears `rsp_valid`, and leaves `rsp_op` and
`rsp_data`. -/
def Obligations.SeedLoadsBothWords : Prop :=
  ∀ (s : State) (a b : Word),
    exec (.seed a b) s = .next { s with word0 := a, word1 := b, seeded := true, rspValid := false } ∧
    ∀ rest : List Inputs,
      step { s with inputs := ⟨false, ⟨true, 0b01#2, a, b⟩⟩ :: rest } =
        .next { s with word0 := a, word1 := b, seeded := true, rspValid := false, inputs := rest }

/-- R83: SEED accepts every pair; after SEED `(0, 0)` every later response is 0 until another SEED; swapping the operands
gives a different state exactly when they differ. -/
def Obligations.SeedAcceptsEveryPairInOrder : Prop :=
  (∀ (s : State) (a b : Word), ∃ t, exec (.seed a b) s = .next t ∧ t.word0 = a ∧ t.word1 = b) ∧
  (∀ (s : State) (ins : List Inputs), (∀ p ∈ ins, seeds p = false) →
    ∀ o ∈ observed (⟨false, ⟨true, 0b01#2, 0, 0⟩⟩ :: ins) s, o.rspValid = true → o.rspData = 0) ∧
  (∀ (s : State) (a b : Word), exec (.seed a b) s = exec (.seed b a) s ↔ a = b)

/-- R108, R109: ADVANCE from any state, written out on bit vectors: the new words, and the wrapped sum of the new and the
old `word1` as the response. -/
def Obligations.AdvanceStepsWordsAndReturnsRaw : Prop :=
  ∀ s : State,
    let t := s.word0 ^^^ (s.word0 <<< 23)
    let w1 := t ^^^ s.word1 ^^^ (t >>> 17) ^^^ (s.word1 >>> 26)
    exec .advance s =
      .next { s with word0 := s.word1, word1 := w1, rspValid := true, rspOp := 0b10#2, rspData := w1 + s.word1 } ∧
    ∀ (a b : Word) (rest : List Inputs),
      step { s with inputs := ⟨false, ⟨true, 0b10#2, a, b⟩⟩ :: rest } =
        .next { s with word0 := s.word1, word1 := w1, rspValid := true, rspOp := 0b10#2, rspData := w1 + s.word1,
                       inputs := rest }

/-- R137: NEXT_DOUBLE changes the words as ADVANCE does, and responds with the binary64 pattern of the low 53 bits of the
raw word. -/
def Obligations.NextDoubleStepsWordsAndReturnsDouble : Prop :=
  ∀ s : State,
    let t := s.word0 ^^^ (s.word0 <<< 23)
    let w1 := t ^^^ s.word1 ^^^ (t >>> 17) ^^^ (s.word1 >>> 26)
    let d := toBinary64 ((w1 + s.word1) &&& 0x001FFFFFFFFFFFFF#64)
    exec .nextDouble s =
      .next { s with word0 := s.word1, word1 := w1, rspValid := true, rspOp := 0b11#2, rspData := d } ∧
    ∀ (a b : Word) (rest : List Inputs),
      step { s with inputs := ⟨false, ⟨true, 0b11#2, a, b⟩⟩ :: rest } =
        .next { s with word0 := s.word1, word1 := w1, rspValid := true, rspOp := 0b11#2, rspData := d,
                       inputs := rest }

/-- R46: which commands may be repeated without effect: IDLE, NOP and SEED with the same operands; ADVANCE and NEXT_DOUBLE
are not among them. -/
def Obligations.OnlyGeneratingCommandsAreNotIdempotent : Prop :=
  (∀ (i : Instr) (s t : State), i.isGenerating = false → exec i s = .next t → exec i t = .next t) ∧
  (∀ i : Instr, i.isGenerating = true →
    ∃ s t u, exec i s = .next t ∧ exec i t = .next u ∧ (t.word0 ≠ u.word0 ∨ t.word1 ≠ u.word1))

/-! ### Arithmetic and the transition -/

/-- R102, R103, R104: the shifts and the sum, with the corner cases the rules list. -/
def Obligations.WordOperationsWrapModulo64Bits : Prop :=
  (∀ (a : Word) (k : Nat), k ≤ 63 →
    (shl64 a k).toNat = a.toNat * 2 ^ k % 2 ^ 64 ∧
    (∀ i < k, (shl64 a k).getLsbD i = false) ∧
    (lshr64 a k).toNat = a.toNat / 2 ^ k ∧
    (∀ i, 64 - k ≤ i → (lshr64 a k).getLsbD i = false)) ∧
  (∀ a b : Word, (add64 a b).toNat = (a.toNat + b.toNat) % 2 ^ 64) ∧
  (∀ a : Word, add64 a 0 = a) ∧
  shl64 0x20000000000#64 23 = 0 ∧
  shl64 0xFFFFFFFFFFFFFFFF#64 23 = 0xFFFFFFFFFF800000#64 ∧
  lshr64 0x8000000000000000#64 17 = 0x0000400000000000#64 ∧
  add64 0xFFFFFFFFFFFFFFFF#64 1 = 0 ∧
  add64 0x8000000000000000#64 0x8000000000000000#64 = 0

/-- R101, R105: XOR and AND, bit by bit. -/
def Obligations.BitwiseOperationsActOnEachBit : Prop :=
  ∀ (a b : Word) (i : Nat), i ≤ 63 →
    ((xor64 a b).getLsbD i = true ↔ (a.getLsbD i = true ∧ b.getLsbD i = false) ∨
      (a.getLsbD i = false ∧ b.getLsbD i = true)) ∧
    ((and64 a b).getLsbD i = true ↔ a.getLsbD i = true ∧ b.getLsbD i = true)

/-- R113: the state part of `xs_next` is a bijection on pairs of words, and the inverse the rule writes out undoes it on
both sides. -/
def Obligations.TransitionIsInvertedByItsInverse : Prop :=
  (∀ w0 w1 : Word, xsPrev (xsNext w0 w1).word0 (xsNext w0 w1).word1 = (w0, w1)) ∧
  (∀ w0 w1 : Word,
    (xsNext (xsPrev w0 w1).1 (xsPrev w0 w1).2).word0 = w0 ∧ (xsNext (xsPrev w0 w1).1 (xsPrev w0 w1).2).word1 = w1) ∧
  Function.Bijective (fun p : Word × Word => ((xsNext p.1 p.2).word0, (xsNext p.1 p.2).word1))

/-- R113's consequences for runs: with no reset and no SEED, the words after any number of edges are the same exactly when
the words before were, and then the responses are the same. -/
def Obligations.RunsKeepDifferentStatesDifferent : Prop :=
  ∀ (s t : State) (ins : List Inputs), (∀ p ∈ ins, p.rst = false ∧ seeds p = false) →
    ∃ s' t', after ins s = .next s' ∧ after ins t = .next t' ∧
      ((s'.word0 = t'.word0 ∧ s'.word1 = t'.word1) ↔ (s.word0 = t.word0 ∧ s.word1 = t.word1)) ∧
      (s.word0 = t.word0 ∧ s.word1 = t.word1 →
        (observed ins s).map responseOf = (observed ins t).map responseOf)

/-- R112: no run without reset and SEED takes a state other than `(0, 0)` to `(0, 0)`. -/
def Obligations.NonzeroWordsNeverBecomeZero : Prop :=
  ∀ (s : State) (ins : List Inputs), (s.word0 ≠ 0 ∨ s.word1 ≠ 0) → (∀ p ∈ ins, p.rst = false ∧ seeds p = false) →
    ∃ t, after ins s = .next t ∧ (t.word0 ≠ 0 ∨ t.word1 ≠ 0)

/-- R112: from `(0, 0)` the words stay `(0, 0)` and every response is 0, for as long as no SEED comes. -/
def Obligations.ZeroWordsAnswerZeroForever : Prop :=
  ∀ (s : State) (ins : List Inputs), s.word0 = 0 → s.word1 = 0 → (∀ p ∈ ins, seeds p = false) →
    (∃ t, after ins s = .next t ∧ t.word0 = 0 ∧ t.word1 = 0) ∧
    (∀ o ∈ observed ins s, o.rspValid = true → o.rspData = 0)

/-! ### The double -/

/-- R131: the mantissa is the low 53 bits of the raw word; the high 11 bits have no effect. -/
def Obligations.MantissaIsLow53BitsOfRaw : Prop :=
  ∀ raw : Word,
    mantissa raw = raw &&& 0x001FFFFFFFFFFFFF#64 ∧
    (mantissa raw).toNat = bitField raw 52 0 ∧
    (mantissa raw).toNat ≤ 2 ^ 53 - 1 ∧
    (∀ other : Word, raw.extractLsb' 0 53 = other.extractLsb' 0 53 → mantissa raw = mantissa other)

/-- R134: the pattern, from the index of the highest 1 bit, with the rule's examples. -/
def Obligations.DoublePatternFollowsHighestBit : Prop :=
  toBinary64 0 = 0 ∧
  (∀ (m : Word) (p : Nat), p ≤ 52 → 2 ^ p ≤ m.toNat → m.toNat < 2 ^ (p + 1) →
    (toBinary64 m).toNat = (970 + p) * 2 ^ 52 + m.toNat * 2 ^ (52 - p) % 2 ^ 52) ∧
  toBinary64 1 = 0x3CA0000000000000#64 ∧
  toBinary64 0x10000000000000#64 = 0x3FE0000000000000#64 ∧
  toBinary64 0x1FFFFFFFFFFFFF#64 = 0x3FEFFFFFFFFFFFFF#64

/-- R132, R133: read as a binary64, the pattern denotes `m / 2^53` exactly, and so does NEXT_DOUBLE's response for the
mantissa of its raw word.  The reading is the layout of G1 (assumption log 8). -/
def Obligations.DoubleDenotesMantissaOverTwoTo53 : Prop :=
  (∀ m : Word, m.toNat < 2 ^ 53 → binary64Value (toBinary64 m) = some ((m.toNat : Rat) / 2 ^ 53)) ∧
  (∀ s : State, ∃ t, exec .nextDouble s = .next t ∧
    binary64Value t.rspData = some ((((t.word1 + s.word1).toNat % 2 ^ 53 : Nat) : Rat) / 2 ^ 53))

/-- R135: the range of the result, and that the pattern grows with the mantissa. -/
def Obligations.DoubleLiesInHalfOpenUnitInterval : Prop :=
  (∀ m : Word, m.toNat < 2 ^ 53 →
    (∃ q : Rat, binary64Value (toBinary64 m) = some q ∧ 0 ≤ q ∧ q ≤ 1 - 1 / 2 ^ 53 ∧ (q = 0 ↔ m = 0)) ∧
    (toBinary64 m = 0 ↔ m = 0) ∧
    bitField (toBinary64 m) 63 63 = 0 ∧
    (m ≠ 0 → 970 ≤ bitField (toBinary64 m) 62 52 ∧ bitField (toBinary64 m) 62 52 ≤ 1022)) ∧
  (∀ m n : Word, m.toNat < n.toNat → n.toNat < 2 ^ 53 → (toBinary64 m).toNat < (toBinary64 n).toNat)

/-! ### Status and response registers -/

/-- R22: `seeded` is cleared by reset, stays 0 until the first SEED, is set by SEED, stays 1 until the next reset, drives
`seeded_o`, and is read by no command. -/
def Obligations.SeededStatusFollowsSeedAndReset : Prop :=
  (∀ (s : State) (c : CmdPort) (ins : List Inputs), (∀ p ∈ ins, seeds p = false) →
    ∃ t, after (⟨true, c⟩ :: ins) s = .next t ∧ t.seeded = false) ∧
  (∀ (s : State) (a b : Word) (ins : List Inputs), (∀ p ∈ ins, p.rst = false) →
    ∃ t, after (⟨false, ⟨true, 0b01#2, a, b⟩⟩ :: ins) s = .next t ∧ t.seeded = true) ∧
  (∀ s : State, s.outputs.seededO = s.seeded) ∧
  (∀ (i : Instr) (s : State) (b : Bool), i.mnemonic ≠ "SEED" →
    ∃ t, exec i s = .next t ∧ exec i { s with seeded := b } = .next { t with seeded := b }) ∧
  (∀ (x y : Word) (s : State) (b : Bool), exec (.seed x y) { s with seeded := b } = exec (.seed x y) s)

/-- R24's access table: which edges write which register; `rsp_valid` is written at every edge (R23). -/
def Obligations.RegistersWrittenOnlyByTheirCommands : Prop :=
  ∀ (s : State) (p : Inputs) (rest : List Inputs),
    ∃ t, step { s with inputs := p :: rest } = .next t ∧ t.inputs = rest ∧ t.rspValid = generates p ∧
      (p.rst = false →
        ((t.word0 ≠ s.word0 ∨ t.word1 ≠ s.word1) → seeds p = true ∨ generates p = true) ∧
        (t.seeded ≠ s.seeded → seeds p = true) ∧
        ((t.rspOp ≠ s.rspOp ∨ t.rspData ≠ s.rspData) → generates p = true))

/-- R65: after a reset and until the next, `rsp_op` is `00` exactly while no generating command has been performed, and it
is never `01`. -/
def Obligations.ResponseCodeZeroOnlyBeforeFirstGenerating : Prop :=
  ∀ (s : State) (c : CmdPort) (ins : List Inputs), (∀ p ∈ ins, p.rst = false) →
    ∃ t, after (⟨true, c⟩ :: ins) s = .next t ∧ t.rspOp ≠ 0b01#2 ∧
      (t.rspOp = 0b00#2 ↔ ∀ p ∈ ins, generates p = false)

/-- R176: a response stays on `rsp_op` and `rsp_data` until the next generating command or reset, `rsp_valid` shows it for
one edge only, and the next generating command replaces it. -/
def Obligations.ResponseHeldUntilReplaced : Prop :=
  ∀ (s : State) (p : Inputs) (ins : List Inputs), generates p = true →
    (∀ q ∈ ins, q.rst = false ∧ generates q = false) →
    ∃ t u, after [p] s = .next t ∧ after (p :: ins) s = .next u ∧
      t.rspValid = true ∧ t.rspOp = p.cmd.cmdOp ∧
      u.rspOp = t.rspOp ∧ u.rspData = t.rspData ∧ (ins ≠ [] → u.rspValid = false) ∧
      (∀ q : Inputs, generates q = true →
        ∃ v w, after (p :: ins ++ [q]) s = .next v ∧ after [q] u = .next w ∧ v = w ∧
          v.rspValid = true ∧ v.rspOp = q.cmd.cmdOp)

/-! ### Whole-machine rules -/

/-- The invariant of Safety.lean holds in the state after reset. -/
def Obligations.ResetStateMeetsMachineInvariant : Prop :=
  MachineInv State.reset

/-- Every step keeps the invariant of Safety.lean (R22, R32, R65, R108, R111, R135): `rsp_op` is never `01`, the response
registers hold their reset values before the first response, an unseeded block holds and answers 0, a double is in the
range of R135, and a response on show is the one the words determine.  A step with no edge to come changes nothing
(DESIGN CHOICE, assumption log 2). -/
def Obligations.EveryStepKeepsMachineInvariant : Prop :=
  ∀ s t : State, MachineInv s → step s = .next t → MachineInv t

/-- R84: what follows a SEED does not depend on what came before it: from any two states the same SEED and the same later
inputs give the same responses, `seeded_o` and words. -/
def Obligations.SeedForgetsEverythingBefore : Prop :=
  ∀ (s t : State) (a b : Word) (ins : List Inputs),
    let edges := Inputs.mk false ⟨true, 0b01#2, a, b⟩ :: ins
    (observed edges s).map responseOf = (observed edges t).map responseOf ∧
    (observed edges s).map Outputs.seededO = (observed edges t).map Outputs.seededO ∧
    ∃ s' t', after edges s = .next s' ∧ after edges t = .next t' ∧ s'.word0 = t'.word0 ∧ s'.word1 = t'.word1

/-- R160: two blocks given a reset and then the same inputs show the same outputs, whatever their registers held and
whatever commands were lost under the reset. -/
def Obligations.BlocksWithSameInputsShowSameOutputs : Prop :=
  ∀ (s t : State) (c d : CmdPort) (ins : List Inputs),
    observed (⟨true, c⟩ :: ins) s = observed (⟨true, d⟩ :: ins) t

/-- R159: an edge of one block changes no other block, and that block's edge is what it would be alone.  The list of blocks
is the model's choice (DESIGN CHOICE, assumption log 12), and so is that a block with no edge to come keeps its state
(DESIGN CHOICE, assumption log 2). -/
def Obligations.BlocksShareNothing : Prop :=
  ∀ (blocks : List State) (k : Nat),
    ∃ now, stepBlock k blocks = .next now ∧ now.length = blocks.length ∧
      (∀ j, j ≠ k → now[j]? = blocks[j]?) ∧
      (∀ s, blocks[k]? = some s → ∃ t, step s = .next t ∧ now[k]? = some t)

/-- R12: the cycle level and the transaction level agree: for every sequence of edges, the words and `seeded` are those of
the transactions, and each edge's outputs show exactly that transaction's response.  Every output is a register: the inputs
to come do not change it. -/
def Obligations.CyclesRefineTransactions : Prop :=
  (∀ (s : State) (ins : List Inputs),
    ∃ t, after ins s = .next t ∧ t.txn = (txnRun s.txn ins).1 ∧
      (observed ins s).map responseOf = (txnRun s.txn ins).2) ∧
  (∀ (s : State) (ins : List Inputs), (s.present ins).outputs = s.outputs)

/-! ### Listings -/

/-- R67: the inputs each statement of a listing drives, and that its don't-care inputs do not change the result. -/
def Obligations.ListingStatementsDriveTheirInputs : Prop :=
  (∀ x : CmdPort,
    stmtInputs x .reset = .ok ⟨true, x⟩ ∧
    stmtInputs x .idle = .ok ⟨false, { x with cmdValid := false }⟩ ∧
    stmtInputs x .nop = .ok ⟨false, { x with cmdValid := true, cmdOp := 0b00#2 }⟩ ∧
    stmtInputs x .advance = .ok ⟨false, { x with cmdValid := true, cmdOp := 0b10#2 }⟩ ∧
    stmtInputs x .nextDouble = .ok ⟨false, { x with cmdValid := true, cmdOp := 0b11#2 }⟩ ∧
    ∀ a b : Word, stmtInputs x (.seed a.toNat b.toNat) = .ok ⟨false, ⟨true, 0b01#2, a, b⟩⟩) ∧
  (∀ (st : Stmt) (x y : CmdPort) (p q : Inputs) (s : State) (rest : List Inputs),
    stmtInputs x st = .ok p → stmtInputs y st = .ok q →
    step { s with inputs := p :: rest } = step { s with inputs := q :: rest })

/-- R66: a literal of 2^64 or more is refused, not reduced, in either place; every other statement is accepted. -/
def Obligations.WideListingLiteralIsRefused : Prop :=
  ∀ (x : CmdPort) (a b : Nat),
    (2 ^ 64 ≤ a ∨ 2 ^ 64 ≤ b → stmtInputs x (.seed a b) = .error .literalTooWide) ∧
    (a < 2 ^ 64 → b < 2 ^ 64 → ∃ p, stmtInputs x (.seed a b) = .ok p)

/-- R66: the assembler reads back every statement from its text, with a comment after it or not and in either case of its
letters, and a number from its hexadecimal form; a blank or comment-only line is IDLE.  How characters make words is the model's choice (DESIGN CHOICE, assumption log 9). -/
def Obligations.ListingTextReadsBack : Prop :=
  (∀ st : Stmt, parseLine (renderStmt st) = .ok st) ∧
  (∀ (st : Stmt) (comment : List Char), parseLine (renderStmt st ++ ';' :: comment) = .ok st) ∧
  (∀ st : Stmt, parseLine ((renderStmt st).map Char.toLower) = .ok st) ∧
  (∀ n : Nat, parseLiteral ('0' :: 'x' :: Nat.toDigits 16 n) = .ok n) ∧
  (∀ comment : List Char, parseLine (';' :: comment) = .ok .idle) ∧
  parseLine [] = .ok .idle
end

