-- ==== Sys2Proof/Laws/Arith.lean ====
section
/-! SUPPORT. The arithmetic of R101 to R105 as operations on bit vectors, the form proofs work in. -/

namespace Sys2Proof.Machine

theorem xor64_eq (a b : Word) : xor64 a b = a ^^^ b := rfl

theorem and64_eq (a b : Word) : and64 a b = a &&& b := rfl

theorem shl64_eq (a : Word) (k : Nat) : shl64 a k = a <<< k := by
  apply BitVec.eq_of_toNat_eq
  simp [shl64, Nat.shiftLeft_eq]

theorem lshr64_eq (a : Word) (k : Nat) : lshr64 a k = a >>> k := by
  apply BitVec.eq_of_toNat_eq
  have h : a.toNat / 2 ^ k < 2 ^ 64 := Nat.lt_of_le_of_lt (Nat.div_le_self ..) a.isLt
  rw [lshr64, BitVec.toNat_ofNat, Nat.mod_eq_of_lt h, BitVec.toNat_ushiftRight,
    Nat.shiftRight_eq_div_pow]

theorem add64_eq (a b : Word) : add64 a b = a + b := by
  apply BitVec.eq_of_toNat_eq
  simp [add64]

/-- `xs_next` on bit vectors. -/
theorem xsNext_eq (w0 w1 : Word) :
    xsNext w0 w1 =
      { word0 := w1
        word1 := (w0 ^^^ w0 <<< 23) ^^^ w1 ^^^ ((w0 ^^^ w0 <<< 23) >>> 17) ^^^ (w1 >>> 26)
        raw := ((w0 ^^^ w0 <<< 23) ^^^ w1 ^^^ ((w0 ^^^ w0 <<< 23) >>> 17) ^^^ (w1 >>> 26)) + w1 } := by
  simp [xsNext, xor64_eq, shl64_eq, lshr64_eq, add64_eq]

/-- `raw` adds the new and the old `word1`, the old `word1` being the new `word0` (R108, R111). -/
theorem xsNext_raw (w0 w1 : Word) : (xsNext w0 w1).raw = (xsNext w0 w1).word1 + (xsNext w0 w1).word0 := by
  simp [xsNext, add64_eq]

@[simp] theorem xsNext_zero : xsNext 0 0 = { word0 := 0, word1 := 0, raw := 0 } := by decide

theorem mantissa_toNat (raw : Word) : (mantissa raw).toNat = raw.toNat % 2 ^ 53 := by
  rw [mantissa, and64, BitVec.toNat_and,
    show mask53.toNat = 2 ^ 53 - 1 by decide, Nat.and_two_pow_sub_one_eq_mod]

/-! ### The highest 1 bit -/

theorem topBitBelow_lt : ∀ (n : Nat) (v : Word), 0 < n → topBitBelow n v < n
  | n + 1, v, _ => by
    unfold topBitBelow
    split
    · exact Nat.lt_succ_self n
    · cases n with
      | zero => simp [topBitBelow]
      | succ k => exact Nat.lt_succ_of_lt (topBitBelow_lt (k + 1) v (Nat.succ_pos k))

/-- The scan finds `p` when bit `p` is 1 and every higher bit of the scanned ones is 0. -/
theorem topBitBelow_eq (v : Word) (p : Nat) (hp : v.getLsbD p = true) :
    ∀ n, p < n → (∀ i, p < i → i < n → v.getLsbD i = false) → topBitBelow n v = p
  | n + 1, hn, hi => by
    unfold topBitBelow
    rcases Nat.lt_succ_iff_lt_or_eq.mp hn with h | h
    · rw [hi n h (Nat.lt_succ_self n)]
      exact topBitBelow_eq v p hp n h fun i h1 h2 => hi i h1 (Nat.lt_succ_of_lt h2)
    · subst h
      simp [hp]

/-- `p` of R134 is the `p` with `2^p ≤ m < 2^(p+1)`. -/
theorem topBit_eq (m : Word) (p : Nat) (h1 : 2 ^ p ≤ m.toNat) (h2 : m.toNat < 2 ^ (p + 1)) : topBit m = p := by
  have hp : p < 64 := by
    by_contra hge
    have : 2 ^ 64 ≤ 2 ^ p := Nat.pow_le_pow_right (by decide) (by omega)
    have := m.isLt
    omega
  refine topBitBelow_eq m p ?_ 64 hp ?_
  · rw [BitVec.getLsbD, Nat.testBit_eq_decide_div_mod_eq]
    have hq : m.toNat / 2 ^ p = 1 := by
      apply Nat.div_eq_of_lt_le
      · omega
      · rw [Nat.pow_succ] at h2; omega
    simp [hq]
  · intro i hi _
    rw [BitVec.getLsbD, Nat.testBit_lt_two_pow]
    exact Nat.lt_of_lt_of_le h2 (Nat.pow_le_pow_right (by decide) hi)

end Sys2Proof.Machine
end

