-- ==== Sys2Proof/Laws/Decode.lean ====
section
/-! SUPPORT. The decoder on each kind of port value. -/

namespace Sys2Proof

@[simp] theorem decode_invalid (op : BitVec 2) (a b : Word) : decode ⟨false, op, a, b⟩ = .idle := rfl

@[simp] theorem decode_nop (a b : Word) : decode ⟨true, 0b00#2, a, b⟩ = .nop := by simp [decode]

@[simp] theorem decode_seed (a b : Word) : decode ⟨true, 0b01#2, a, b⟩ = .seed a b := by simp [decode]

@[simp] theorem decode_advance (a b : Word) : decode ⟨true, 0b10#2, a, b⟩ = .advance := by simp [decode]

@[simp] theorem decode_nextDouble (a b : Word) : decode ⟨true, 0b11#2, a, b⟩ = .nextDouble := by simp [decode]

/-- Every operation code is one of the four of R63. -/
theorem cmdOp_cases (op : BitVec 2) : op = 0b00#2 ∨ op = 0b01#2 ∨ op = 0b10#2 ∨ op = 0b11#2 := by
  revert op; decide

/-- What a port value presents, one case per row of R63's table. -/
theorem decode_cases (p : CmdPort) :
    (p.cmdValid = false ∧ decode p = .idle) ∨
    (p.cmdValid = true ∧ p.cmdOp = 0b00#2 ∧ decode p = .nop) ∨
    (p.cmdValid = true ∧ p.cmdOp = 0b01#2 ∧ decode p = .seed p.cmdSeedA p.cmdSeedB) ∨
    (p.cmdValid = true ∧ p.cmdOp = 0b10#2 ∧ decode p = .advance) ∨
    (p.cmdValid = true ∧ p.cmdOp = 0b11#2 ∧ decode p = .nextDouble) := by
  obtain ⟨v, op, a, b⟩ := p
  cases v
  · exact .inl ⟨rfl, rfl⟩
  · rcases cmdOp_cases op with rfl | rfl | rfl | rfl
    · exact .inr (.inl ⟨rfl, rfl, decode_nop a b⟩)
    · exact .inr (.inr (.inl ⟨rfl, rfl, decode_seed a b⟩))
    · exact .inr (.inr (.inr (.inl ⟨rfl, rfl, decode_advance a b⟩)))
    · exact .inr (.inr (.inr (.inr ⟨rfl, rfl, decode_nextDouble a b⟩)))

/-- Bit 2 of a control word is `cmd_valid`, bits 1 and 0 are `cmd_op` (R61). -/
theorem controlWord_getLsbD (p : CmdPort) (i : Nat) :
    (controlWord p).getLsbD i = if i < 2 then p.cmdOp.getLsbD i else (decide (i = 2) && p.cmdValid) := by
  refine Eq.trans (BitVec.getLsbD_append (x := BitVec.ofBool p.cmdValid) (y := p.cmdOp)) ?_
  by_cases h : i < 2
  · simp [h]
  · by_cases h2 : i = 2
    · subst h2; cases p.cmdValid <;> simp
    · have : (BitVec.ofBool p.cmdValid).getLsbD (i - 2) = false :=
        BitVec.getLsbD_of_ge _ _ (by omega)
      simp [h, h2, this]

/-- The bits of a packed port: CW, then `cmd_seed_a`, then `cmd_seed_b`. -/
theorem packPort_getLsbD (p : CmdPort) (i : Nat) :
    (packPort p).getLsbD i =
      if i < 3 then (controlWord p).getLsbD i
      else if i < 67 then p.cmdSeedA.getLsbD (i - 3) else p.cmdSeedB.getLsbD (i - 67) := by
  refine Eq.trans (BitVec.getLsbD_append (x := p.cmdSeedB ++ p.cmdSeedA) (y := controlWord p)) ?_
  by_cases h : i < 3
  · simp [h]
  · rw [if_neg h, if_neg h]
    refine Eq.trans (BitVec.getLsbD_append (x := p.cmdSeedB) (y := p.cmdSeedA)) ?_
    by_cases h2 : i < 67
    · rw [if_pos (show i - 3 < 64 by omega), if_pos h2]
    · rw [if_neg (show ¬ i - 3 < 64 by omega), if_neg h2, show i - 3 - 64 = i - 67 by omega]

end Sys2Proof
end

