-- ==== Sys2Proof/Laws/PerInstr.lean ====
section
/-! SUPPORT. Statements made per command: each encoding lies in the command's own row of the opcode table. -/

namespace Sys2Proof.Laws

/-- Whatever the don't-care inputs, the control word that presents `i` is admitted by one row of the table alone, and
that row has `i`'s mnemonic. -/
def EncodeInTable.Statement (i : Instr) : Prop :=
  ∀ x : CmdPort,
    (opcodeTable.filter fun r => r.admits (controlWord (encode x i))).map OpcodeRow.mnemonic = [i.mnemonic]

theorem EncodeInTable.idle : EncodeInTable.Statement .idle := by
  rintro ⟨v, op, a, b⟩
  show (opcodeTable.filter fun r => r.admits (BitVec.ofBool false ++ op)).map OpcodeRow.mnemonic = ["IDLE"]
  revert op
  decide

theorem EncodeInTable.nop : EncodeInTable.Statement .nop := by
  intro x
  show (opcodeTable.filter fun r => r.admits (BitVec.ofBool true ++ 0b00#2)).map OpcodeRow.mnemonic = ["NOP"]
  decide

theorem EncodeInTable.seed (a b : Word) : EncodeInTable.Statement (.seed a b) := by
  intro x
  show (opcodeTable.filter fun r => r.admits (BitVec.ofBool true ++ 0b01#2)).map OpcodeRow.mnemonic = ["SEED"]
  decide

theorem EncodeInTable.advance : EncodeInTable.Statement .advance := by
  intro x
  show (opcodeTable.filter fun r => r.admits (BitVec.ofBool true ++ 0b10#2)).map OpcodeRow.mnemonic = ["ADVANCE"]
  decide

theorem EncodeInTable.nextDouble : EncodeInTable.Statement .nextDouble := by
  intro x
  show (opcodeTable.filter fun r => r.admits (BitVec.ofBool true ++ 0b11#2)).map OpcodeRow.mnemonic = ["NEXT_DOUBLE"]
  decide

end Sys2Proof.Laws
end

