-- ==== Sys2Proof/Laws/State.lean ====
section
/-! SUPPORT. One lemma per field per update of State, so that no later proof unfolds a record update. -/

namespace Sys2Proof.Machine

variable (s : State)

@[simp] theorem State.setWords_word0 (a b : Word) : (s.setWords a b).word0 = a := rfl
@[simp] theorem State.setWords_word1 (a b : Word) : (s.setWords a b).word1 = b := rfl
@[simp] theorem State.setWords_seeded (a b : Word) : (s.setWords a b).seeded = s.seeded := rfl
@[simp] theorem State.setWords_rspValid (a b : Word) : (s.setWords a b).rspValid = s.rspValid := rfl
@[simp] theorem State.setWords_rspOp (a b : Word) : (s.setWords a b).rspOp = s.rspOp := rfl
@[simp] theorem State.setWords_rspData (a b : Word) : (s.setWords a b).rspData = s.rspData := rfl
@[simp] theorem State.setWords_inputs (a b : Word) : (s.setWords a b).inputs = s.inputs := rfl

@[simp] theorem State.respond_word0 (op : BitVec 2) (d : Word) : (s.respond op d).word0 = s.word0 := rfl
@[simp] theorem State.respond_word1 (op : BitVec 2) (d : Word) : (s.respond op d).word1 = s.word1 := rfl
@[simp] theorem State.respond_seeded (op : BitVec 2) (d : Word) : (s.respond op d).seeded = s.seeded := rfl
@[simp] theorem State.respond_rspValid (op : BitVec 2) (d : Word) : (s.respond op d).rspValid = true := rfl
@[simp] theorem State.respond_rspOp (op : BitVec 2) (d : Word) : (s.respond op d).rspOp = op := rfl
@[simp] theorem State.respond_rspData (op : BitVec 2) (d : Word) : (s.respond op d).rspData = d := rfl
@[simp] theorem State.respond_inputs (op : BitVec 2) (d : Word) : (s.respond op d).inputs = s.inputs := rfl

@[simp] theorem State.noResponse_word0 : s.noResponse.word0 = s.word0 := rfl
@[simp] theorem State.noResponse_word1 : s.noResponse.word1 = s.word1 := rfl
@[simp] theorem State.noResponse_seeded : s.noResponse.seeded = s.seeded := rfl
@[simp] theorem State.noResponse_rspValid : s.noResponse.rspValid = false := rfl
@[simp] theorem State.noResponse_rspOp : s.noResponse.rspOp = s.rspOp := rfl
@[simp] theorem State.noResponse_rspData : s.noResponse.rspData = s.rspData := rfl
@[simp] theorem State.noResponse_inputs : s.noResponse.inputs = s.inputs := rfl

@[simp] theorem State.markSeeded_word0 : s.markSeeded.word0 = s.word0 := rfl
@[simp] theorem State.markSeeded_word1 : s.markSeeded.word1 = s.word1 := rfl
@[simp] theorem State.markSeeded_seeded : s.markSeeded.seeded = true := rfl
@[simp] theorem State.markSeeded_rspValid : s.markSeeded.rspValid = s.rspValid := rfl
@[simp] theorem State.markSeeded_rspOp : s.markSeeded.rspOp = s.rspOp := rfl
@[simp] theorem State.markSeeded_rspData : s.markSeeded.rspData = s.rspData := rfl
@[simp] theorem State.markSeeded_inputs : s.markSeeded.inputs = s.inputs := rfl

@[simp] theorem State.resetRegisters_word0 : s.resetRegisters.word0 = 0 := rfl
@[simp] theorem State.resetRegisters_word1 : s.resetRegisters.word1 = 0 := rfl
@[simp] theorem State.resetRegisters_seeded : s.resetRegisters.seeded = false := rfl
@[simp] theorem State.resetRegisters_rspValid : s.resetRegisters.rspValid = false := rfl
@[simp] theorem State.resetRegisters_rspOp : s.resetRegisters.rspOp = 0 := rfl
@[simp] theorem State.resetRegisters_rspData : s.resetRegisters.rspData = 0 := rfl
@[simp] theorem State.resetRegisters_inputs : s.resetRegisters.inputs = s.inputs := rfl

@[simp] theorem State.present_word0 (l : List Inputs) : (s.present l).word0 = s.word0 := rfl
@[simp] theorem State.present_word1 (l : List Inputs) : (s.present l).word1 = s.word1 := rfl
@[simp] theorem State.present_seeded (l : List Inputs) : (s.present l).seeded = s.seeded := rfl
@[simp] theorem State.present_rspValid (l : List Inputs) : (s.present l).rspValid = s.rspValid := rfl
@[simp] theorem State.present_rspOp (l : List Inputs) : (s.present l).rspOp = s.rspOp := rfl
@[simp] theorem State.present_rspData (l : List Inputs) : (s.present l).rspData = s.rspData := rfl
@[simp] theorem State.present_inputs (l : List Inputs) : (s.present l).inputs = l := rfl

theorem State.nextEdge_nil (h : s.inputs = []) : s.nextEdge = none := by
  simp [State.nextEdge, h]

theorem State.nextEdge_cons {p : Inputs} {rest : List Inputs} (h : s.inputs = p :: rest) :
    s.nextEdge = some (p, s.present rest) := by
  simp [State.nextEdge, h]

@[simp] theorem State.present_present (k l : List Inputs) : (s.present k).present l = s.present l := rfl

@[simp] theorem State.present_self : s.present s.inputs = s := rfl

/-- The values of R32. -/
theorem State.resetRegisters_eq : s.resetRegisters = State.reset.present s.inputs := rfl

end Sys2Proof.Machine
end

