-- ==== Sys2Proof/Laws/Step.lean ====
section
/-! SUPPORT. What each meaning, one edge, one step and a run can do: said once, and cited by later proofs. -/

namespace Sys2Proof.Machine

/-! ### The meanings -/

theorem exec_idle (s : State) : exec .idle s = .next s.noResponse := rfl

theorem exec_nop (s : State) : exec .nop s = .next s.noResponse := rfl

theorem exec_seed (a b : Word) (s : State) :
    exec (.seed a b) s = .next ((s.setWords a b).markSeeded).noResponse := rfl

theorem exec_advance (s : State) :
    exec .advance s =
      .next ((s.setWords (xsNext s.word0 s.word1).word0 (xsNext s.word0 s.word1).word1).respond 0b10#2
        (xsNext s.word0 s.word1).raw) := rfl

theorem exec_nextDouble (s : State) :
    exec .nextDouble s =
      .next ((s.setWords (xsNext s.word0 s.word1).word0 (xsNext s.word0 s.word1).word1).respond 0b11#2
        (toBinary64 (mantissa (xsNext s.word0 s.word1).raw))) := rfl

/-- The registers after one command, as a function; `exec` answers exactly this (`exec_eq`). -/
def execState (i : Instr) (s : State) : State :=
  let n := xsNext s.word0 s.word1
  match i with
  | .idle => s.noResponse
  | .nop => s.noResponse
  | .seed a b => ((s.setWords a b).markSeeded).noResponse
  | .advance => (s.setWords n.word0 n.word1).respond 0b10#2 n.raw
  | .nextDouble => (s.setWords n.word0 n.word1).respond 0b11#2 (toBinary64 (mantissa n.raw))

theorem exec_eq (i : Instr) (s : State) : exec i s = .next (execState i s) := by
  cases i <;> rfl

/-! ### One edge and one step -/

/-- The state after one edge, as a function; `edge` answers exactly this (`edge_eq`). -/
def edgeState (p : Inputs) (s : State) : State :=
  if p.rst then s.resetRegisters else execState (decode p.cmd) s

theorem edge_eq (p : Inputs) (s : State) : edge p s = .next (edgeState p s) := by
  unfold edge edgeState
  split
  · rfl
  · exact exec_eq ..

theorem step_nil {s : State} (h : s.inputs = []) : step s = .next s := by
  simp [step, State.nextEdge_nil s h, clockStopped]

theorem step_cons {s : State} {p : Inputs} {rest : List Inputs} (h : s.inputs = p :: rest) :
    step s = .next (edgeState p (s.present rest)) := by
  simp [step, State.nextEdge_cons s h, edge_eq]

/-- Everything one step can do. -/
theorem step_cases {s t : State} (h : step s = .next t) :
    (s.inputs = [] ∧ t = s) ∨
    ∃ p rest, s.inputs = p :: rest ∧
      ((p.rst = true ∧ t = (s.present rest).resetRegisters) ∨
       (p.rst = false ∧ t = execState (decode p.cmd) (s.present rest))) := by
  match hi : s.inputs with
  | [] =>
    rw [step_nil hi] at h
    injection h with h
    exact .inl ⟨rfl, h.symm⟩
  | p :: rest =>
    rw [step_cons hi] at h
    injection h with h
    refine .inr ⟨p, rest, rfl, ?_⟩
    cases hr : p.rst with
    | true => exact .inl ⟨rfl, by rw [← h, edgeState, hr]; rfl⟩
    | false => exact .inr ⟨rfl, by rw [← h, edgeState, hr]; rfl⟩

/-! ### Runs -/

/-- The state after a sequence of edges, as a fold (R47); `after` answers exactly this (`after_eq`). -/
def edgesState (ins : List Inputs) (s : State) : State :=
  ins.foldl (fun t p => edgeState p t) (s.present [])

theorem execState_present (i : Instr) (s : State) (l : List Inputs) :
    execState i (s.present l) = (execState i s).present l := by
  cases i <;> rfl

theorem edgeState_present (p : Inputs) (s : State) (l : List Inputs) :
    edgeState p (s.present l) = (edgeState p s).present l := by
  unfold edgeState
  split
  · rfl
  · exact execState_present ..

theorem edgesState_cons (p : Inputs) (ins : List Inputs) (s : State) :
    edgesState (p :: ins) s = edgesState ins (edgeState p s) := by
  simp [edgesState, edgeState_present]

theorem run_succ_of_next {n : Nat} {s t : State} (h : step s = .next t) : run (n + 1) s = run n t := by
  simp [run, h]

theorem core_run_succ_of_next (M : Host.Core) (n : Nat) {s t : M.State} (h : M.step s = .next t) :
    M.run (n + 1) s = M.run n t := by
  rw [Host.Core.run, h]

/-- Every step answers with the next edge's state, or with the state itself when no edge is to come. -/
theorem step_eq (s : State) :
    step s = .next (match s.inputs with
      | [] => s
      | p :: rest => edgeState p (s.present rest)) := by
  match h : s.inputs with
  | [] => exact step_nil h
  | p :: rest => exact step_cons h

/-- `run` is the host's own run of the machine. -/
theorem run_eq_core_run (n : Nat) (s : State) : run n s = Host.Core.run Sys2Proof.core n s := by
  induction n generalizing s with
  | zero => rfl
  | succ n ih =>
    rw [run_succ_of_next (step_eq s), ih]
    exact (core_run_succ_of_next Sys2Proof.core n (step_eq s)).symm

theorem after_nil (s : State) : after [] s = .next (s.present []) := rfl

theorem after_cons (p : Inputs) (ins : List Inputs) (s : State) :
    after (p :: ins) s = after ins (edgeState p s) := by
  have h : step (s.present (p :: ins)) = .next (edgeState p ((s.present (p :: ins)).present ins)) :=
    step_cons (State.present_inputs ..)
  rw [after, List.length_cons, run_succ_of_next h]
  simp [after, edgeState_present]

theorem after_eq (ins : List Inputs) (s : State) : after ins s = .next (edgesState ins s) := by
  induction ins generalizing s with
  | nil => rfl
  | cons p ins ih => rw [after_cons, ih, edgesState_cons]

theorem observed_nil (s : State) : observed [] s = [] := rfl

theorem observed_cons (p : Inputs) (ins : List Inputs) (s : State) :
    observed (p :: ins) s = (edgeState p s).outputs :: observed ins (edgeState p s) := by
  have h : step (s.present (p :: ins)) = .next (edgeState p ((s.present (p :: ins)).present ins)) :=
    step_cons (State.present_inputs ..)
  simp only [observed, List.length_cons, observe, h]
  simp [edgeState_present, State.outputs]

end Sys2Proof.Machine
end

