-- ==== Sys2Proof/Tests/Slice0.lean ====
section
/-! SUPPORT. Tests of the model, each against a value of the spec (spec/95_test_vectors.md unless another place is
named), and witnesses that the hypotheses of the statements in Certificates/Slice0/Obligations.lean can be met. -/

namespace Sys2Proof.Tests

open Sys2Proof.Machine

/-! ### Helpers -/

/-- The start state of section 2.5, with `p` on the port at the next edge. -/
def kState (p : Inputs) : State :=
  { word0 := 1, word1 := 2, seeded := true, rspValid := true, rspOp := 0b10#2, rspData := 5, inputs := [p] }

/-- The registers of a state that holds no later input. -/
def regs (w0 w1 : Word) (sd rv : Bool) (op : BitVec 2) (d : Word) : State :=
  { word0 := w0, word1 := w1, seeded := sd, rspValid := rv, rspOp := op, rspData := d, inputs := [] }

/-- Does an outcome go on to exactly this state? -/
def nextIs (o : Host.Outcome State Fault Refusal) (t : State) : Bool :=
  match o with
  | .next u => decide (u = t)
  | .fault _ => false
  | .refused _ => false

/-- One edge on the port: `rst`, `cmd_valid`, `cmd_op`, and the operand buses at 0xAA and 0xBB. -/
def edgeIn (rst valid : Bool) (op : BitVec 2) : Inputs := ⟨rst, ⟨valid, op, 0xAA, 0xBB⟩⟩

/-! ### Well-formedness: each check refuses an ill-formed term -/

theorem test_wf_refuses_wide_first_literal : (Stmt.seed (2 ^ 64) 0).wf = false := by decide

theorem test_wf_refuses_wide_second_literal : (Stmt.seed 0 (2 ^ 64)).wf = false := by decide

theorem test_wf_accepts_largest_literals : (Stmt.seed (2 ^ 64 - 1) (2 ^ 64 - 1)).wf = true := by decide

/-! ### Decode: control words from R63's table, bit by bit -/

theorem test_decode_idle : decodeTableWord 8 0b000 = some .idle ∧ decodeTableWord 8 0b011 = some .idle := by decide

theorem test_decode_nop : decodeTableWord 8 0b100 = some .nop := by decide

/-- `cmd_seed_a = 1` and `cmd_seed_b = 2` above CW, in the layout of assumption log 5. -/
theorem test_decode_seed : decodeTableWord 131 (0b101 + 1 * 2 ^ 3 + 2 * 2 ^ 67) = some (.seed 1 2) := by decide

theorem test_decode_advance : decodeTableWord 8 0b110 = some .advance := by decide

theorem test_decode_nextDouble : decodeTableWord 8 0b111 = some .nextDouble := by decide

theorem test_fetch_word_runs_nop :
    nextIs (step (State.reset.withFetchWord 8 0b100)) State.reset = true := by decide

/-! ### One edge each: K1 to K8 -/

theorem test_idle_K1 :
    nextIs (step (kState (edgeIn false false 0b11#2))) (regs 1 2 true false 0b10#2 5) = true := by decide

theorem test_nop_K2 :
    nextIs (step (kState (edgeIn false true 0b00#2))) (regs 1 2 true false 0b10#2 5) = true := by decide

theorem test_seed_K3 :
    nextIs (step (kState (edgeIn false true 0b01#2))) (regs 0xAA 0xBB true false 0b10#2 5) = true := by decide

theorem test_reset_beats_advance_K6 :
    nextIs (step (kState (edgeIn true true 0b10#2))) (regs 0 0 false false 0b00#2 0) = true := by decide

theorem test_reset_beats_seed_K7 :
    nextIs (step (kState (edgeIn true true 0b01#2))) (regs 0 0 false false 0b00#2 0) = true := by decide

theorem test_advance_K8 :
    nextIs (step (kState (edgeIn false true 0b10#2)))
      (regs 2 0x0000000000800043#64 true true 0b10#2 0x0000000000800045#64) = true := by decide

/-- N5: every operation wraps, and the high 11 bits of the raw word are dropped. -/
theorem test_nextDouble_N5 :
    nextIs (exec .nextDouble (regs 0xFFFFFFFFFFFFFFFF#64 0xFFFFFFFFFFFFFFFF#64 true false 0b00#2 0))
      (regs 0xFFFFFFFFFFFFFFFF#64 0xFFFFFFC0007FFFC0#64 true true 0b11#2 0x3FEFFFC0007FFFBF#64) = true := by decide

/-- N12: the document's seeds; the first value of the derived regression vector (90_conflicts.md C1). -/
theorem test_nextDouble_N12 :
    nextIs (exec .nextDouble (regs 0x3D3C3EE388B1C5FC#64 0x7266AD485C03AB4D#64 true false 0b00#2 0))
      (regs 0x7266AD485C03AB4D#64 0x3E9EED29801987FE#64 true true 0b11#2 0x3FC669C77074CD2C#64) = true := by decide

/-! ### The operations of the two generating commands -/

/-- A6: the right shift by 17 is logical. -/
theorem test_xsNext_A6 :
    xsNext 0x8000000000000000#64 0 =
      { word0 := 0, word1 := 0x8000400000000000#64, raw := 0x8000400000000000#64 } := by decide

/-- A7: the carry of the final sum is discarded. -/
theorem test_xsNext_A7 :
    xsNext 0 0x8000000000000000#64 =
      { word0 := 0x8000000000000000#64, word1 := 0x8000002000000000#64, raw := 0x0000002000000000#64 } := by decide

/-- A12, backwards: R113's inverse gives the document's seeds. -/
theorem test_xsPrev_A12 :
    xsPrev 0x7266AD485C03AB4D#64 0x3E9EED29801987FE#64 = (0x3D3C3EE388B1C5FC#64, 0x7266AD485C03AB4D#64) := by decide

/-- X3, X5 and X7. -/
theorem test_toBinary64 :
    toBinary64 3 = 0x3CB8000000000000#64 ∧ toBinary64 0x10000000000000#64 = 0x3FE0000000000000#64 ∧
    toBinary64 0x1FFFFFFFFFFFFF#64 = 0x3FEFFFFFFFFFFFFF#64 := by decide

/-- X8 and X11: bits 53 and 63 of the raw word are discarded. -/
theorem test_mantissa : mantissa 0x0020000000000000#64 = 0 ∧ mantissa 0x8000000000000001#64 = 1 := by decide

/-- R43's layout on a value outside the block's range: the pattern of -2 (sign 1, exponent 1024), and an infinity. -/
theorem test_binary64Value :
    binary64Value 0xC000000000000000#64 = some (-2) ∧ binary64Value 0x7FF0000000000000#64 = none := by
  constructor
  · norm_num [binary64Value, bitField]
  · decide

/-! ### Listings (R66) -/

theorem test_parse_seed_hex_and_comment :
    parseLine ['s', 'E', 'E', 'D', ' ', '0', 'x', 'A', 'A', ',', '1', '2', ' ', ';', 'x'] = .ok (.seed 0xAA 12) := by
  rfl

theorem test_parse_refuses_unknown_mnemonic : parseLine ['J', 'M', 'P'] = .error .unknownMnemonic := by rfl

/-! ### Witnesses of the statements' hypotheses

Each names the statement it is for, and gives inputs that meet all its hypotheses together. -/

/-- An ADVANCE and a NEXT_DOUBLE edge, an IDLE edge, and the SEED edge of `(1, 2)`. -/
def advanceEdge : Inputs := edgeIn false true 0b10#2
def doubleEdge : Inputs := edgeIn false true 0b11#2
def idleEdge : Inputs := edgeIn false false 0b00#2

theorem witness_StoppedClockHoldsEveryRegister : State.reset.inputs = [] := rfl

theorem witness_FetchedTableWordRunsItsCommand : decodeTableWord 8 0b101 = some (.seed 0 0) := by decide

theorem witness_EveryControlWordSelectsExactlyOneCommand : (decode ⟨true, 0b10#2, 1, 2⟩).mnemonic ≠ "SEED" := by
  decide

theorem witness_SeedAcceptsEveryPairInOrder :
    (∀ p ∈ [advanceEdge, doubleEdge], seeds p = false) ∧
    ∃ o ∈ observed [⟨false, ⟨true, 0b01#2, 0, 0⟩⟩, advanceEdge, doubleEdge] State.reset, o.rspValid = true := by
  decide

theorem witness_OnlyGeneratingCommandsAreNotIdempotent_repeats :
    Instr.isGenerating (.seed 1 2) = false ∧
    nextIs (exec (.seed 1 2) State.reset) (regs 1 2 true false 0b00#2 0) = true := by decide

theorem witness_OnlyGeneratingCommandsAreNotIdempotent_steps :
    Instr.isGenerating .advance = true ∧ Instr.isGenerating .nextDouble = true := by decide

/-- The shift amounts 0 and 63 at the ends of the range, and the bit positions of each clause. -/
theorem witness_WordOperationsWrapModulo64Bits :
    (0 ≤ 63 ∧ 63 ≤ 63 ∧ 62 < 63 ∧ 64 - 63 ≤ 1 ∧ 64 - 0 ≤ 64) ∧
    shl64 1 63 = 0x8000000000000000#64 ∧ lshr64 0x8000000000000000#64 63 = 1 ∧ shl64 5 0 = 5 ∧ lshr64 5 0 = 5 := by
  decide

theorem witness_BitwiseOperationsActOnEachBit :
    63 ≤ 63 ∧ (xor64 0x8000000000000000#64 0).getLsbD 63 = true ∧
    (and64 0x8000000000000001#64 0x8000000000000000#64).getLsbD 63 = true := by decide

/-- Two states that differ, and two with the same words, under the same inputs. -/
theorem witness_RunsKeepDifferentStatesDifferent :
    (∀ p ∈ [advanceEdge, idleEdge, doubleEdge], p.rst = false ∧ seeds p = false) ∧
    (regs 1 2 true false 0b00#2 0).word0 = (regs 1 2 false true 0b10#2 5).word0 ∧
    (regs 1 2 true false 0b00#2 0).word1 = (regs 1 2 false true 0b10#2 5).word1 := by decide

theorem witness_NonzeroWordsNeverBecomeZero :
    ((regs 1 0 true false 0b00#2 0).word0 ≠ 0 ∨ (regs 1 0 true false 0b00#2 0).word1 ≠ 0) ∧
    (∀ p ∈ [advanceEdge, idleEdge, doubleEdge], p.rst = false ∧ seeds p = false) := by decide

theorem witness_ZeroWordsAnswerZeroForever :
    State.reset.word0 = 0 ∧ State.reset.word1 = 0 ∧ (∀ p ∈ [advanceEdge, doubleEdge], seeds p = false) ∧
    ∃ o ∈ observed [advanceEdge, doubleEdge] State.reset, o.rspValid = true := by decide

theorem witness_MantissaIsLow53BitsOfRaw :
    (0x8000000000000001#64).extractLsb' 0 53 = (1#64).extractLsb' 0 53 := by decide

/-- `p = 0` with the only `m` there, and `p = 52` with the smallest and the largest `m`. -/
theorem witness_DoublePatternFollowsHighestBit :
    (0 ≤ 52 ∧ 2 ^ 0 ≤ (1#64).toNat ∧ (1#64).toNat < 2 ^ (0 + 1)) ∧
    (52 ≤ 52 ∧ 2 ^ 52 ≤ (0x10000000000000#64).toNat ∧ (0x1FFFFFFFFFFFFF#64).toNat < 2 ^ (52 + 1)) := by decide

theorem witness_DoubleDenotesMantissaOverTwoTo53 : (0x1FFFFFFFFFFFFF#64).toNat < 2 ^ 53 := by decide

theorem witness_DoubleLiesInHalfOpenUnitInterval :
    (0x1FFFFFFFFFFFFF#64).toNat < 2 ^ 53 ∧ (0x1FFFFFFFFFFFFF#64 : Word) ≠ 0 ∧
    (0x1FFFFFFFFFFFFE#64).toNat < (0x1FFFFFFFFFFFFF#64).toNat := by decide

theorem witness_SeededStatusFollowsSeedAndReset :
    (∀ p ∈ [advanceEdge, idleEdge], seeds p = false) ∧ (∀ p ∈ [advanceEdge, idleEdge], p.rst = false) ∧
    Instr.mnemonic .advance ≠ "SEED" := by decide

/-- An edge with `rst = 0` under which words and response change, and one under which `seeded` changes. -/
theorem witness_RegistersWrittenOnlyByTheirCommands :
    advanceEdge.rst = false ∧
    nextIs (step (kState advanceEdge)) (regs 2 0x800043#64 true true 0b10#2 0x800045#64) = true ∧
    nextIs (step (State.reset.present [edgeIn false true 0b01#2])) (regs 0xAA 0xBB true false 0b00#2 0) = true := by
  decide

theorem witness_ResponseCodeZeroOnlyBeforeFirstGenerating :
    (∀ p ∈ [idleEdge, edgeIn false true 0b01#2], p.rst = false) ∧
    (∀ p ∈ [idleEdge, edgeIn false true 0b01#2], generates p = false) := by decide

theorem witness_ResponseHeldUntilReplaced :
    generates doubleEdge = true ∧ (∀ q ∈ [idleEdge, edgeIn false true 0b01#2], q.rst = false ∧ generates q = false) ∧
    [idleEdge, edgeIn false true 0b01#2] ≠ [] ∧ generates advanceEdge = true := by decide

/-- A state that meets the invariant with every clause in use: seeded, with a NEXT_DOUBLE response on show (N12). -/
theorem witness_EveryStepKeepsMachineInvariant :
    MachineInv (regs 0x7266AD485C03AB4D#64 0x3E9EED29801987FE#64 true true 0b11#2 0x3FC669C77074CD2C#64) ∧
    nextIs (step (regs 0x7266AD485C03AB4D#64 0x3E9EED29801987FE#64 true true 0b11#2 0x3FC669C77074CD2C#64))
      (regs 0x7266AD485C03AB4D#64 0x3E9EED29801987FE#64 true true 0b11#2 0x3FC669C77074CD2C#64) = true := by decide

/-- The same for an ADVANCE response on show (A12), with a further edge to come. -/
theorem witness_EveryStepKeepsMachineInvariant_advance :
    MachineInv ((regs 0x7266AD485C03AB4D#64 0x3E9EED29801987FE#64 true true 0b10#2 0xB1059A71DC1D334B#64).present
      [idleEdge]) ∧
    nextIs (step ((regs 0x7266AD485C03AB4D#64 0x3E9EED29801987FE#64 true true 0b10#2 0xB1059A71DC1D334B#64).present
      [idleEdge])) (regs 0x7266AD485C03AB4D#64 0x3E9EED29801987FE#64 true false 0b10#2 0xB1059A71DC1D334B#64) = true := by
  decide

theorem witness_BlocksShareNothing :
    0 ≠ 1 ∧ [State.reset, kState advanceEdge][1]? = some (kState advanceEdge) := by decide

theorem witness_ListingStatementsDriveTheirInputs :
    stmtInputs ⟨true, 3, 7, 8⟩ .idle = .ok ⟨false, ⟨false, 3, 7, 8⟩⟩ ∧
    stmtInputs ⟨true, 1, 0, 0⟩ .idle = .ok ⟨false, ⟨false, 1, 0, 0⟩⟩ := ⟨rfl, rfl⟩

theorem witness_WideListingLiteralIsRefused :
    (2 ^ 64 ≤ 2 ^ 64 ∨ 2 ^ 64 ≤ 0) ∧ 2 ^ 64 - 1 < 2 ^ 64 := by decide

end Sys2Proof.Tests
end

section
/-! The cycle level refines the transaction level (R12).  `State.txn` is the abstraction, and what an edge shows is read
by `responseOf` from the outputs: each operation on the registers has one rule for either, one edge commutes with one
transaction, and a run with the fold of its transactions. -/

namespace Sys2Proof.Machine

/-! ### What each operation does to the transaction-level state -/

section Txn

variable (s : State)

@[simp] theorem State.txn_setWords (a b : Word) :
    (s.setWords a b).txn = { s.txn with word0 := a, word1 := b } := rfl

@[simp] theorem State.txn_markSeeded : s.markSeeded.txn = { s.txn with seeded := true } := rfl

@[simp] theorem State.txn_respond (op : BitVec 2) (d : Word) : (s.respond op d).txn = s.txn := rfl

@[simp] theorem State.txn_noResponse : s.noResponse.txn = s.txn := rfl

@[simp] theorem State.txn_resetRegisters :
    s.resetRegisters.txn = { word0 := 0, word1 := 0, seeded := false } := rfl

@[simp] theorem State.txn_present (l : List Inputs) : (s.present l).txn = s.txn := rfl

@[simp] theorem State.txn_word0 : s.txn.word0 = s.word0 := rfl

@[simp] theorem State.txn_word1 : s.txn.word1 = s.word1 := rfl

/-! ### What each operation puts on the outputs -/

@[simp] theorem responseOf_respond (op : BitVec 2) (d : Word) :
    responseOf (s.respond op d).outputs = some { op := op, data := d } := rfl

@[simp] theorem responseOf_noResponse : responseOf s.noResponse.outputs = none := rfl

@[simp] theorem responseOf_resetRegisters : responseOf s.resetRegisters.outputs = none := rfl

/-- Every output is a register: the inputs to come do not show (R60). -/
@[simp] theorem State.outputs_present (l : List Inputs) : (s.present l).outputs = s.outputs := rfl

end Txn

/-! ### One command, one edge, one run -/

/-- The commuting square of one command. -/
theorem txnExec_txn (i : Instr) (s : State) :
    txnExec s.txn i = ((execState i s).txn, responseOf (execState i s).outputs) := by
  cases i <;> simp [txnExec, execState]

/-- The commuting square of one edge: a reset on both levels, or the decoded command on both. -/
theorem txnEdge_txn (p : Inputs) (s : State) :
    txnEdge s.txn p = ((edgeState p s).txn, responseOf (edgeState p s).outputs) := by
  unfold txnEdge edgeState
  split
  · simp
  · exact txnExec_txn ..

/-- A run on the cycle level, seen through `State.txn` and `responseOf`, is the fold of its transactions. -/
theorem txnRun_txn (ins : List Inputs) (s : State) :
    txnRun s.txn ins = ((edgesState ins s).txn, (observed ins s).map responseOf) := by
  induction ins generalizing s with
  | nil => simp [txnRun, edgesState, observed_nil]
  | cons p ins ih =>
    simp only [txnRun, txnEdge_txn, ih, edgesState_cons, observed_cons, List.map_cons]

/-- Settles O39: the simulation `txnRun_txn` along every run, and outputs that are registers only. -/
theorem cyclesRefineTransactions : Obligations.CyclesRefineTransactions := by
  refine ⟨fun s ins => ⟨edgesState ins s, after_eq ins s, ?_, ?_⟩, State.outputs_present⟩
  · rw [txnRun_txn]
  · rw [txnRun_txn]

end Sys2Proof.Machine
end

section
/-! What one command and one edge write (R22 to R24), as one equation or frame rule per register.  A command other than
SEED and the generating ones writes `rsp_valid` alone. -/

namespace Sys2Proof

/-- SEED, told from the other commands, as `Instr.isGenerating` tells the generating ones; `seeds_eq` ties it to the
port. -/
def Instr.isSeed : Instr → Bool
  | .seed _ _ => true
  | _ => false

theorem Instr.isSeed_eq_false_of_mnemonic_ne {i : Instr} (h : i.mnemonic ≠ "SEED") : i.isSeed = false := by
  cases i with
  | seed a b => exact absurd rfl h
  | idle | nop | advance | nextDouble => rfl

namespace Machine

/-- An edge performs SEED exactly when it is no reset and SEED is decoded. -/
theorem seeds_eq (p : Inputs) : seeds p = (!p.rst && (decode p.cmd).isSeed) := by
  rcases decode_cases p.cmd with ⟨hv, hd⟩ | ⟨hv, ho, hd⟩ | ⟨hv, ho, hd⟩ | ⟨hv, ho, hd⟩ | ⟨hv, ho, hd⟩ <;>
    simp [seeds, Instr.isSeed, *]

/-! ### One command -/

@[simp] theorem execState_rspValid (i : Instr) (s : State) : (execState i s).rspValid = i.isGenerating := by
  cases i <;> rfl

@[simp] theorem execState_seeded (i : Instr) (s : State) : (execState i s).seeded = (s.seeded || i.isSeed) := by
  cases i <;> simp [execState, Instr.isSeed]

/-- Only SEED and the generating commands write the words. -/
theorem execState_words_frame {i : Instr} (s : State) (hseed : i.isSeed = false) (hgen : i.isGenerating = false) :
    (execState i s).word0 = s.word0 ∧ (execState i s).word1 = s.word1 := by
  cases i with
  | idle | nop => exact ⟨rfl, rfl⟩
  | seed a b => cases hseed
  | advance | nextDouble => cases hgen

/-- Only the generating commands write the response code and the response. -/
theorem execState_response_frame {i : Instr} (s : State) (hgen : i.isGenerating = false) :
    (execState i s).rspOp = s.rspOp ∧ (execState i s).rspData = s.rspData := by
  cases i with
  | idle | nop | seed a b => exact ⟨rfl, rfl⟩
  | advance | nextDouble => cases hgen

/-- No command other than SEED reads or writes `seeded`. -/
theorem execState_with_seeded {i : Instr} (s : State) (b : Bool) (hseed : i.isSeed = false) :
    execState i { s with seeded := b } = { execState i s with seeded := b } := by
  cases i with
  | idle | nop | advance | nextDouble => rfl
  | seed x y => cases hseed

/-! ### One edge, and a property kept along a run -/

theorem edgeState_of_rst {p : Inputs} (s : State) (h : p.rst = true) : edgeState p s = s.resetRegisters := by
  simp [edgeState, h]

theorem edgeState_of_not_rst {p : Inputs} (s : State) (h : p.rst = false) :
    edgeState p s = execState (decode p.cmd) s := by
  simp [edgeState, h]

@[simp] theorem edgeState_rspValid (p : Inputs) (s : State) : (edgeState p s).rspValid = generates p := by
  cases h : p.rst with
  | true => simp [edgeState_of_rst s h, generates, h]
  | false => simp [edgeState_of_not_rst s h, generates, h]

@[simp] theorem edgeState_seeded (p : Inputs) (s : State) :
    (edgeState p s).seeded = (!p.rst && s.seeded || seeds p) := by
  cases h : p.rst with
  | true => simp [edgeState_of_rst s h, seeds_eq, h]
  | false => simp [edgeState_of_not_rst s h, seeds_eq, h]

theorem edgeState_words_frame {p : Inputs} (s : State) (hrst : p.rst = false) (hseed : seeds p = false)
    (hgen : generates p = false) : (edgeState p s).word0 = s.word0 ∧ (edgeState p s).word1 = s.word1 := by
  rw [edgeState_of_not_rst s hrst]
  exact execState_words_frame s (by simpa [seeds_eq, hrst] using hseed) (by simpa [generates, hrst] using hgen)

theorem edgeState_seeded_frame {p : Inputs} (s : State) (hrst : p.rst = false) (hseed : seeds p = false) :
    (edgeState p s).seeded = s.seeded := by
  simp [hrst, hseed]

theorem edgeState_response_frame {p : Inputs} (s : State) (hrst : p.rst = false) (hgen : generates p = false) :
    (edgeState p s).rspOp = s.rspOp ∧ (edgeState p s).rspData = s.rspData := by
  rw [edgeState_of_not_rst s hrst]
  exact execState_response_frame s (by simpa [generates, hrst] using hgen)

/-- What every edge of a run keeps holds at its end. -/
theorem edgesState_keeps {P : State → Prop} {ins : List Inputs} {s : State}
    (hkeep : ∀ p ∈ ins, ∀ t, P t → P (edgeState p t)) (hs : P (s.present [])) : P (edgesState ins s) :=
  List.foldlRecOn ins _ hs fun t ht p hp => hkeep p hp t ht

/-- Settles O30: `seeded` along a run by `edgeState_seeded`, and its independence from the commands by
`execState_with_seeded`. -/
theorem seededStatusFollowsSeedAndReset : Obligations.SeededStatusFollowsSeedAndReset := by
  refine ⟨fun s c ins hins => ⟨_, after_eq _ s, ?_⟩, fun s a b ins hins => ⟨_, after_eq _ s, ?_⟩, fun s => rfl,
    fun i s b hi => ⟨_, exec_eq i s, ?_⟩, fun x y s b => rfl⟩
  · rw [edgesState_cons]
    refine edgesState_keeps (P := fun t => t.seeded = false) (fun p hp t ht => ?_) ?_
    · simp [ht, hins p hp]
    · simp [seeds]
  · rw [edgesState_cons]
    refine edgesState_keeps (P := fun t => t.seeded = true) (fun p hp t ht => ?_) ?_
    · simp [ht, hins p hp]
    · simp [seeds]
  · rw [exec_eq, execState_with_seeded s b (Instr.isSeed_eq_false_of_mnemonic_ne hi)]

/-- Settles O31: the frame rules of one edge, each read backwards: a register that changed was written. -/
theorem registersWrittenOnlyByTheirCommands : Obligations.RegistersWrittenOnlyByTheirCommands := by
  intro s p rest
  have hstep : step { s with inputs := p :: rest } = .next ((edgeState p s).present rest) :=
    (step_cons rfl).trans (congrArg _ (edgeState_present p s rest))
  refine ⟨_, hstep, rfl, edgeState_rspValid p s, fun hrst => ⟨fun hw => ?_, fun hs => ?_, fun hr => ?_⟩⟩
  · by_contra hno
    obtain ⟨hseed, hgen⟩ : seeds p = false ∧ generates p = false := by simpa using hno
    obtain ⟨h0, h1⟩ := edgeState_words_frame s hrst hseed hgen
    exact hw.elim (· h0) (· h1)
  · by_contra hno
    exact hs (edgeState_seeded_frame s hrst (by simpa using hno))
  · by_contra hno
    obtain ⟨hop, hdata⟩ := edgeState_response_frame s hrst (by simpa using hno)
    exact hr.elim (· hop) (· hdata)

end Machine
end Sys2Proof
end

section
/-! The fields of a converted double (R134): every pattern NEXT_DOUBLE answers is one R135 allows. -/

namespace Sys2Proof.Machine

theorem topBit_eq_log2 {m : Word} (hm : m ≠ 0) : topBit m = m.toNat.log2 := by
  have h0 : m.toNat ≠ 0 := BitVec.toNat_ne.mp hm
  exact topBit_eq m _ (Nat.log2_self_le h0) Nat.lt_log2_self

theorem topBit_le_of_lt {m : Word} (hm : m ≠ 0) (hlt : m.toNat < 2 ^ 53) : topBit m ≤ 52 := by
  have h0 : m.toNat ≠ 0 := BitVec.toNat_ne.mp hm
  rw [topBit_eq_log2 hm]
  exact Nat.le_of_lt_succ ((Nat.log2_lt h0).mpr hlt)

@[simp] theorem toBinary64_zero : toBinary64 0#64 = 0#64 := rfl

/-- The pattern of R134 as a number: the biased exponent above the 52 fraction bits, and the sign bit 0. -/
theorem toBinary64_toNat {m : Word} (hm : m ≠ 0) (hlt : m.toNat < 2 ^ 53) :
    (toBinary64 m).toNat = biasedExponent m * 2 ^ 52 + (fraction m).toNat % 2 ^ 52 := by
  have hE : (BitVec.ofNat 11 (biasedExponent m)).toNat = biasedExponent m := by
    have := topBit_le_of_lt hm hlt
    exact Nat.mod_eq_of_lt (by unfold biasedExponent; omega)
  rw [toBinary64, if_neg (c := m = 0#64) hm, BitVec.toNat_append,
    ← Nat.shiftLeft_add_eq_or_of_lt (BitVec.isLt ..), Nat.shiftLeft_eq, BitVec.toNat_append, hE]
  simp

theorem bitField_sign_toBinary64 {m : Word} (hm : m ≠ 0) (hlt : m.toNat < 2 ^ 53) :
    bitField (toBinary64 m) 63 63 = 0 := by
  have hp := topBit_le_of_lt hm hlt
  rw [bitField, toBinary64_toNat hm hlt, biasedExponent]
  omega

theorem bitField_exponent_toBinary64 {m : Word} (hm : m ≠ 0) (hlt : m.toNat < 2 ^ 53) :
    bitField (toBinary64 m) 62 52 = 970 + topBit m := by
  have hp := topBit_le_of_lt hm hlt
  rw [bitField, toBinary64_toNat hm hlt, biasedExponent]
  omega

theorem isUnitPattern_toBinary64 {m : Word} (hlt : m.toNat < 2 ^ 53) : isUnitPattern (toBinary64 m) = true := by
  by_cases hm : m = 0
  · subst hm; rfl
  · have hE : 970 + topBit m ≤ 1022 := Nat.add_le_add_left (topBit_le_of_lt hm hlt) 970
    rw [isUnitPattern, bitField_sign_toBinary64 hm hlt, bitField_exponent_toBinary64 hm hlt]
    simp [hE]

theorem isUnitPattern_toBinary64_mantissa (raw : Word) : isUnitPattern (toBinary64 (mantissa raw)) = true :=
  isUnitPattern_toBinary64 (by rw [mantissa_toNat]; exact Nat.mod_lt _ (by decide))

end Sys2Proof.Machine
end

section
/-! The machine's invariant (Safety.lean): it holds at reset, and each command and each edge keep it. -/

namespace Sys2Proof.Machine

/-- The invariant speaks of the registers only. -/
theorem machineInv_present (s : State) (l : List Inputs) : MachineInv (s.present l) ↔ MachineInv s := Iff.rfl

theorem machineInv_reset : MachineInv State.reset := by decide

theorem machineInv_noResponse {s : State} (hs : MachineInv s) : MachineInv s.noResponse := by
  obtain ⟨hop, hfirst, hunseeded, hunit, -, -⟩ := hs
  exact ⟨hop, fun h => ⟨rfl, (hfirst h).2⟩, hunseeded, hunit, nofun, nofun⟩

/-- SEED loads any words: the invariant binds them only while `seeded = 0` or a response is on show. -/
theorem machineInv_seed {s : State} (a b : Word) (hs : MachineInv s) :
    MachineInv ((s.setWords a b).markSeeded).noResponse := by
  obtain ⟨hop, hfirst, -, hunit, -, -⟩ := hs
  exact ⟨hop, fun h => ⟨rfl, (hfirst h).2⟩, nofun, hunit, nofun, nofun⟩

/-- R112: while `seeded = 0` a transition goes from zero words to zero words, and its raw word is 0. -/
theorem xsNext_of_unseeded {s : State} (hs : MachineInv s) (h : s.seeded = false) :
    xsNext s.word0 s.word1 = { word0 := 0, word1 := 0, raw := 0 } := by
  obtain ⟨-, -, hunseeded, -, -, -⟩ := hs
  obtain ⟨h0, h1, -⟩ := hunseeded h
  rw [h0, h1, xsNext_zero]

theorem machineInv_advance {s : State} (hs : MachineInv s) : MachineInv (execState .advance s) := by
  refine ⟨by simp [execState], by simp [execState], fun h => ?_, by simp [execState], fun _ _ => ?_,
    by simp [execState]⟩
  · simp [execState, xsNext_of_unseeded hs h]
  · exact xsNext_raw s.word0 s.word1

theorem machineInv_nextDouble {s : State} (hs : MachineInv s) : MachineInv (execState .nextDouble s) := by
  refine ⟨by simp [execState], by simp [execState], fun h => ?_, fun _ => ?_, by simp [execState], fun _ _ => ?_⟩
  · simp [execState, xsNext_of_unseeded hs h, mantissa, and64]
  · exact isUnitPattern_toBinary64_mantissa _
  · exact congrArg (fun raw => toBinary64 (mantissa raw)) (xsNext_raw s.word0 s.word1)

theorem execState_keeps_machineInv (i : Instr) {s : State} (hs : MachineInv s) : MachineInv (execState i s) := by
  cases i with
  | idle | nop => exact machineInv_noResponse hs
  | seed a b => exact machineInv_seed a b hs
  | advance => exact machineInv_advance hs
  | nextDouble => exact machineInv_nextDouble hs

/-- Settles O34. -/
theorem resetStateMeetsMachineInvariant : Obligations.ResetStateMeetsMachineInvariant := machineInv_reset

/-- Settles O35: a step holds the state, resets its registers, or performs one command, and each keeps the invariant. -/
theorem everyStepKeepsMachineInvariant : Obligations.EveryStepKeepsMachineInvariant := by
  intro s t hs hstep
  obtain ⟨-, rfl⟩ | ⟨p, rest, -, ⟨-, rfl⟩ | ⟨-, rfl⟩⟩ := step_cases hstep
  · exact hs
  · rw [State.resetRegisters_eq, machineInv_present]
    exact machineInv_reset
  · exact execState_keeps_machineInv _ ((machineInv_present s rest).mpr hs)

/-- Settles O2. -/
theorem resetStateHoldsSpecResetValues : Obligations.ResetStateHoldsSpecResetValues :=
  ⟨rfl, rfl, rfl, rfl, rfl, rfl⟩

end Sys2Proof.Machine
end

section
/-! Commands in the order of the edges (R47), and which may be repeated without effect (R46). -/

namespace Sys2Proof.Machine

/-! ### Runs compose -/

/-- What the host presents later is no register, so a run takes the registers alone from the state it starts in. -/
@[simp] theorem edgesState_present (ins l : List Inputs) (s : State) :
    edgesState ins (s.present l) = edgesState ins s := rfl

@[simp] theorem observed_present (ins l : List Inputs) (s : State) : observed ins (s.present l) = observed ins s := rfl

theorem edgesState_append (early late : List Inputs) (s : State) :
    edgesState (early ++ late) s = edgesState late (edgesState early s) := by
  induction early generalizing s with
  | nil => exact (edgesState_present late [] s).symm
  | cons p early ih => simp only [List.cons_append, edgesState_cons, ih]

theorem observed_append (early late : List Inputs) (s : State) :
    observed (early ++ late) s = observed early s ++ observed late (edgesState early s) := by
  induction early generalizing s with
  | nil => exact (observed_present late [] s).symm
  | cons p early ih => simp only [List.cons_append, observed_cons, edgesState_cons, ih]

/-- Settles O7: the fold `edgesState` splits over an append, and its first edge, when no reset, is `exec`. -/
theorem runsComposeInEdgeOrder : Obligations.RunsComposeInEdgeOrder := by
  refine ⟨fun s early late => ⟨edgesState early s, after_eq early s, ?_, observed_append early late s⟩,
    fun s c late => ⟨execState (decode c) s, exec_eq (decode c) s, ?_⟩⟩
  · rw [after_eq, after_eq, edgesState_append]
  · rw [after_cons, edgeState_of_not_rst s rfl]

/-! ### Commands performed twice -/

/-- Only the generating commands read what they write. -/
theorem execState_execState_of_not_generating {i : Instr} (s : State) (hgen : i.isGenerating = false) :
    execState i (execState i s) = execState i s := by
  cases i with
  | idle | nop | seed a b => rfl
  | advance | nextDouble => cases hgen

/-- Either generating command makes one transition of the words, whatever it responds. -/
theorem execState_words_of_generating {i : Instr} (s : State) (hgen : i.isGenerating = true) :
    (execState i s).word0 = (xsNext s.word0 s.word1).word0 ∧
    (execState i s).word1 = (xsNext s.word0 s.word1).word1 := by
  cases i with
  | idle | nop | seed a b => cases hgen
  | advance | nextDouble => exact ⟨rfl, rfl⟩

/-- Settles O19: from the words 1 and 0 the first transition leaves 0 in `word0`, and the second brings there the
`word1` that the first computed. -/
theorem onlyGeneratingCommandsAreNotIdempotent : Obligations.OnlyGeneratingCommandsAreNotIdempotent := by
  refine ⟨fun i s t hgen hst => ?_, fun i hgen => ?_⟩
  · rw [exec_eq] at hst ⊢
    injection hst with hst
    rw [← hst, execState_execState_of_not_generating s hgen]
  · let s := State.reset.setWords 1 0
    refine ⟨s, _, _, exec_eq i s, exec_eq i _, .inl ?_⟩
    obtain ⟨h0, h1⟩ := execState_words_of_generating s hgen
    obtain ⟨h0', -⟩ := execState_words_of_generating (execState i s) hgen
    rw [h0', h0, h1]
    decide

end Sys2Proof.Machine
end

section
/-! Decode and encode are inverse on the command port and on its 131 bits (R61 to R64), and the decode table row by
row. -/

namespace Sys2Proof

/-! ### The command port -/

theorem decode_encode (x : CmdPort) (i : Instr) : decode (encode x i) = i := by
  cases i with
  | idle => exact decode_invalid ..
  | nop => exact decode_nop ..
  | seed a b => exact decode_seed a b
  | advance => exact decode_advance ..
  | nextDouble => exact decode_nextDouble ..

/-- The port a command was decoded from supplies the don't-care inputs, so its encoding there is that port again. -/
theorem encode_decode (p : CmdPort) : encode p (decode p) = p := by
  obtain ⟨v, op, a, b⟩ := p
  rcases decode_cases ⟨v, op, a, b⟩ with
    ⟨rfl, hd⟩ | ⟨rfl, rfl, hd⟩ | ⟨rfl, rfl, hd⟩ | ⟨rfl, rfl, hd⟩ | ⟨rfl, rfl, hd⟩ <;> rw [hd] <;> rfl

/-- The decoder reads the operand buses for SEED alone (R64). -/
theorem decode_buses (v : Bool) (op : BitVec 2) (a b c d : Word) :
    decode ⟨v, op, a, b⟩ = decode ⟨v, op, c, d⟩ ∨
    (decode ⟨v, op, a, b⟩ = .seed a b ∧ decode ⟨v, op, c, d⟩ = .seed c d) := by
  cases v with
  | false => exact .inl rfl
  | true =>
    rcases cmdOp_cases op with rfl | rfl | rfl | rfl
    · exact .inl ((decode_nop a b).trans (decode_nop c d).symm)
    · exact .inr ⟨decode_seed a b, decode_seed c d⟩
    · exact .inl ((decode_advance a b).trans (decode_advance c d).symm)
    · exact .inl ((decode_nextDouble a b).trans (decode_nextDouble c d).symm)

/-! ### The 131 bits of the port -/

theorem packPort_controlWord (p : CmdPort) : (packPort p).extractLsb' 0 3 = controlWord p := by
  apply BitVec.eq_of_getLsbD_eq
  intro i hi
  simp [packPort_getLsbD, hi]

theorem packPort_cmdSeedA (p : CmdPort) : (packPort p).extractLsb' 3 64 = p.cmdSeedA := by
  apply BitVec.eq_of_getLsbD_eq
  intro i hi
  simp [packPort_getLsbD, hi, show 3 + i < 67 by omega]

theorem packPort_cmdSeedB (p : CmdPort) : (packPort p).extractLsb' 67 64 = p.cmdSeedB := by
  apply BitVec.eq_of_getLsbD_eq
  intro i hi
  simp [packPort_getLsbD, hi, show ¬ 67 + i < 3 by omega]

theorem packPort_cmdValid (p : CmdPort) : (packPort p).getLsbD 2 = p.cmdValid := by
  rw [packPort_getLsbD, if_pos (by decide), controlWord_getLsbD]
  simp

theorem packPort_cmdOp (p : CmdPort) : (packPort p).extractLsb' 0 2 = p.cmdOp := by
  apply BitVec.eq_of_getLsbD_eq
  intro i hi
  rw [BitVec.getLsbD_extractLsb', Nat.zero_add, packPort_getLsbD, if_pos (by omega), controlWord_getLsbD, if_pos hi]
  simp [hi]

theorem unpackPort_packPort (p : CmdPort) : unpackPort (packPort p) = p := by
  rw [unpackPort, packPort_cmdValid, packPort_cmdOp, packPort_cmdSeedA, packPort_cmdSeedB]

/-- The five fields cover all 131 bits: `cmd_op` the bits 0 and 1, `cmd_valid` bit 2, the operand buses the rest. -/
theorem packPort_unpackPort (w : BitVec 131) : packPort (unpackPort w) = w := by
  apply BitVec.eq_of_getLsbD_eq
  intro i hi
  rw [packPort_getLsbD, controlWord_getLsbD]
  by_cases hop : i < 2
  · simp [unpackPort, hop, show i < 3 by omega]
  by_cases hvalid : i = 2
  · simp [unpackPort, hvalid]
  by_cases hseedA : i < 67
  · simp [unpackPort, hseedA, show ¬ i < 3 by omega, show i - 3 < 64 by omega, show 3 + (i - 3) = i by omega]
  · simp [unpackPort, hseedA, show ¬ i < 3 by omega, show i - 67 < 64 by omega, show 67 + (i - 67) = i by omega]

theorem decodeWord_encodeWord (x : BitVec 131) (i : Instr) : decodeWord (encodeWord x i) = i := by
  rw [decodeWord, encodeWord, unpackPort_packPort, decode_encode]

theorem encodeWord_decodeWord (w : BitVec 131) : encodeWord w (decodeWord w) = w := by
  rw [decodeWord, encodeWord, encode_decode, packPort_unpackPort]

theorem controlWord_encode_seed (x : CmdPort) (a b : Word) : controlWord (encode x (.seed a b)) = 0b101#3 := by
  show BitVec.ofBool true ++ 0b01#2 = 0b101#3
  decide

/-- Settles O11: `encode` and `packPort` each have their inverse on both sides, and SEED's encoding does not read the
don't-care bits. -/
theorem packedPortDecodeEncodeRoundTrip : Obligations.PackedPortDecodeEncodeRoundTrip :=
  ⟨decodeWord_encodeWord, encodeWord_decodeWord, fun x a b =>
    ⟨(packPort_controlWord _).trans (controlWord_encode_seed (unpackPort x) a b), packPort_cmdSeedA _,
      packPort_cmdSeedB _⟩⟩

/-! ### The decode table -/

/-- `Laws.EncodeInTable`, its five commands together. -/
theorem encodeInTable (i : Instr) : Laws.EncodeInTable.Statement i := by
  cases i with
  | idle => exact Laws.EncodeInTable.idle
  | nop => exact Laws.EncodeInTable.nop
  | seed a b => exact Laws.EncodeInTable.seed a b
  | advance => exact Laws.EncodeInTable.advance
  | nextDouble => exact Laws.EncodeInTable.nextDouble

/-- One row alone takes a port value's control word, that of the command decoded: the port is an encoding of it. -/
theorem rows_of_controlWord (p : CmdPort) :
    (opcodeTable.filter fun r => r.admits (controlWord p)).map OpcodeRow.mnemonic = [(decode p).mnemonic] := by
  have h := encodeInTable (decode p) p
  rwa [encode_decode] at h

theorem exists_controlWord_eq (cw : BitVec 3) : ∃ p, controlWord p = cw :=
  ⟨⟨cw.getLsbD 2, cw.extractLsb' 0 2, 0, 0⟩, by revert cw; decide⟩

/-- Settles O9: the one row of a control word by `rows_of_controlWord`, and what the other inputs can change by
`decode_buses`. -/
theorem everyControlWordSelectsExactlyOneCommand : Obligations.EveryControlWordSelectsExactlyOneCommand := by
  refine ⟨fun cw => ?_, fun p => ?_, fun v op a b c d => ?_, fun _ _ _ _ => rfl⟩
  · obtain ⟨p, rfl⟩ := exists_controlWord_eq cw
    simpa using congrArg List.length (rows_of_controlWord p)
  · have hmem : (decode p).mnemonic ∈
        (opcodeTable.filter fun r => r.admits (controlWord p)).map OpcodeRow.mnemonic := by
      rw [rows_of_controlWord]
      exact List.mem_singleton_self _
    obtain ⟨r, hr, hname⟩ := List.mem_map.mp hmem
    obtain ⟨htable, hadmits⟩ := List.mem_filter.mp hr
    exact ⟨r, htable, hadmits, hname⟩
  · rcases decode_buses v op a b c d with h | ⟨hab, hcd⟩
    · rw [h]
      exact ⟨rfl, fun _ => rfl⟩
    · rw [hab, hcd]
      exact ⟨rfl, fun hne => absurd rfl hne⟩

/-- Settles O10. -/
theorem writtenOutControlWordsDecode : Obligations.WrittenOutControlWordsDecode :=
  ⟨by decide, by decide, by decide, by decide, by decide, by decide, decode_seed ..⟩

end Sys2Proof
end

section
/-! What an edge does with the command port: a reset edge reads nothing of it, the response code it leaves (R65), and
the edge of a table word. -/

namespace Sys2Proof.Machine

/-- Settles O8: the rows of `decode`, and an edge with `rst = 1` that reads nothing of the command port. -/
theorem decodeTableSelectsCommand : Obligations.DecodeTableSelectsCommand :=
  ⟨decode_invalid, fun a b => ⟨decode_nop a b, decode_seed a b, decode_advance a b, decode_nextDouble a b⟩,
    fun _ _ _ _ => by
      rw [step_cons rfl, step_cons rfl, edgeState_of_rst _ rfl, edgeState_of_rst _ rfl]
      rfl⟩

/-! ### The response code -/

/-- A generating edge writes its own `cmd_op`, which is never `00`. -/
theorem edgeState_rspOp_of_generates {p : Inputs} (s : State) (hgen : generates p = true) :
    (edgeState p s).rspOp = p.cmd.cmdOp ∧ p.cmd.cmdOp ≠ 0b00#2 := by
  obtain ⟨hrst, hi⟩ : p.rst = false ∧ (decode p.cmd).isGenerating = true := by simpa [generates] using hgen
  rw [edgeState_of_not_rst s hrst]
  rcases decode_cases p.cmd with ⟨-, hd⟩ | ⟨-, -, hd⟩ | ⟨-, -, hd⟩ | ⟨-, hop, hd⟩ | ⟨-, hop, hd⟩ <;> rw [hd] at hi ⊢
  · cases hi
  · cases hi
  · cases hi
  · rw [hop]
    exact ⟨rfl, by decide⟩
  · rw [hop]
    exact ⟨rfl, by decide⟩

/-- Until the next reset `rsp_op` is `00` after an edge exactly when it was before and the edge did not generate. -/
theorem edgeState_rspOp_eq_zero_iff {p : Inputs} (s : State) (hrst : p.rst = false) :
    (edgeState p s).rspOp = 0b00#2 ↔ s.rspOp = 0b00#2 ∧ generates p = false := by
  cases hgen : generates p with
  | true =>
    obtain ⟨hop, hne⟩ := edgeState_rspOp_of_generates s hgen
    simp [hop, hne]
  | false => simp [(edgeState_response_frame s hrst hgen).1]

theorem edgesState_rspOp_eq_zero_iff {ins : List Inputs} (s : State) (hrst : ∀ p ∈ ins, p.rst = false) :
    (edgesState ins s).rspOp = 0b00#2 ↔ s.rspOp = 0b00#2 ∧ ∀ p ∈ ins, generates p = false := by
  induction ins generalizing s with
  | nil => simp [edgesState]
  | cons p ins ih =>
    obtain ⟨hp, hins⟩ := List.forall_mem_cons.mp hrst
    rw [edgesState_cons, ih _ hins, edgeState_rspOp_eq_zero_iff s hp, and_assoc, List.forall_mem_cons]

theorem machineInv_resetRegisters (s : State) : MachineInv s.resetRegisters := by
  rw [State.resetRegisters_eq, machineInv_present]
  exact machineInv_reset

theorem edgeState_keeps_machineInv (p : Inputs) {s : State} (hs : MachineInv s) : MachineInv (edgeState p s) := by
  unfold edgeState
  split
  · exact machineInv_resetRegisters s
  · exact execState_keeps_machineInv _ hs

theorem edgesState_keeps_machineInv (ins : List Inputs) {s : State} (hs : MachineInv s) :
    MachineInv (edgesState ins s) :=
  edgesState_keeps (fun p _ _ ht => edgeState_keeps_machineInv p ht) hs

/-- Settles O32: the invariant excludes `01`, and `00` is followed along the run from the reset value. -/
theorem responseCodeZeroOnlyBeforeFirstGenerating : Obligations.ResponseCodeZeroOnlyBeforeFirstGenerating := by
  intro s c ins hrst
  have hrun : edgesState (⟨true, c⟩ :: ins) s = edgesState ins s.resetRegisters := by
    rw [edgesState_cons, edgeState_of_rst s rfl]
  refine ⟨_, after_eq _ s, ?_, ?_⟩ <;> rw [hrun]
  · obtain ⟨hop, -⟩ := edgesState_keeps_machineInv ins (machineInv_resetRegisters s)
    exact hop
  · simp [edgesState_rspOp_eq_zero_iff _ hrst]

/-! ### Table words -/

/-- Settles O12: the edge placed at the head of the inputs is no reset, and its port is the one decoded. -/
theorem fetchedTableWordRunsItsCommand : Obligations.FetchedTableWordRunsItsCommand := by
  intro s nbits w i hi
  have hdecode : decode (tablePort nbits w) = i := by
    unfold decodeTableWord at hi
    split at hi
    · exact Option.some.inj hi
    · cases hi
  rw [← hdecode, exec_eq]
  exact step_cons (s := s.withFetchWord nbits w) rfl

end Sys2Proof.Machine
end

section
/-! The inputs a statement of a listing drives (R66, R67): each row of R67's table, the don't-care inputs, and the bound on
a literal. -/

namespace Sys2Proof.Machine

/-- A well-formed statement that presents a command drives that command's encoding. -/
theorem stmtInputs_of_command (x : CmdPort) {st : Stmt} {i : Instr} (hwf : st.wf = true)
    (hi : stmtCommand st = some i) : stmtInputs x st = .ok ⟨false, encode x i⟩ := by
  simp [stmtInputs, hwf, hi]

theorem stmtInputs_of_not_wf (x : CmdPort) {st : Stmt} (hwf : st.wf = false) :
    stmtInputs x st = .error .literalTooWide := by
  simp [stmtInputs, hwf]

theorem wf_seed_iff (a b : Nat) : (Stmt.seed a b).wf = true ↔ a < 2 ^ 64 ∧ b < 2 ^ 64 := by
  simp [Stmt.wf, literalOk]

/-- Everything an accepted statement can drive: a reset edge, or the encoding of its command. -/
theorem stmtInputs_cases {x : CmdPort} {st : Stmt} {p : Inputs} (h : stmtInputs x st = .ok p) :
    (stmtCommand st = none ∧ p = ⟨true, x⟩) ∨ ∃ i, stmtCommand st = some i ∧ p = ⟨false, encode x i⟩ := by
  unfold stmtInputs at h
  split at h
  · split at h
    next hnone =>
      injection h with h
      exact .inl ⟨hnone, h.symm⟩
    next i hi =>
      injection h with h
      exact .inr ⟨i, hi, h.symm⟩
  · cases h

/-- The state after the edge of a statement, which no don't-care input enters (`edgeState_stmtInputs`). -/
def stmtState (st : Stmt) (s : State) : State :=
  (stmtCommand st).elim s.resetRegisters fun i => execState i s

theorem edgeState_stmtInputs {x : CmdPort} {st : Stmt} {p : Inputs} (s : State) (h : stmtInputs x st = .ok p) :
    edgeState p s = stmtState st s := by
  rcases stmtInputs_cases h with ⟨hnone, rfl⟩ | ⟨i, hi, rfl⟩
  · rw [edgeState_of_rst s rfl, stmtState, hnone, Option.elim_none]
  · rw [edgeState_of_not_rst s rfl, decode_encode, stmtState, hi, Option.elim_some]

/-- Settles O40: R67's rows are those of `encode`, and by `edgeState_stmtInputs` the edge does not depend on the don't-care
inputs. -/
theorem listingStatementsDriveTheirInputs : Obligations.ListingStatementsDriveTheirInputs := by
  refine ⟨fun x => ⟨rfl, rfl, rfl, rfl, rfl, fun a b => ?_⟩, fun st x y p q s rest hp hq => ?_⟩
  · have hwf : (Stmt.seed a.toNat b.toNat).wf = true := (wf_seed_iff ..).mpr ⟨a.isLt, b.isLt⟩
    have hcmd : stmtCommand (.seed a.toNat b.toNat) = some (.seed a b) := by simp [stmtCommand]
    exact stmtInputs_of_command x hwf hcmd
  · rw [step_cons rfl, step_cons rfl, edgeState_stmtInputs _ hp, edgeState_stmtInputs _ hq]
    rfl

/-- Settles O41: `wf` is the bound on both literals, and `stmtInputs` refuses by name what is not well formed. -/
theorem wideListingLiteralIsRefused : Obligations.WideListingLiteralIsRefused := by
  refine fun x a b => ⟨fun hwide => stmtInputs_of_not_wf x ?_, fun ha hb => ⟨_, stmtInputs_of_command x ?_ rfl⟩⟩
  · rw [Bool.eq_false_iff, ne_eq, wf_seed_iff]
    omega
  · exact (wf_seed_iff a b).mpr ⟨ha, hb⟩

end Sys2Proof.Machine
end

section
/-! Reading a listing's text (R66): a number from its digits, the words of a line, and each statement from what
`renderStmt` writes, in either case. -/

namespace Sys2Proof.Machine

/-! ### Numbers -/

theorem digitValue_digitChar {b d : Nat} (hb : b ≤ 16) (hd : d < b) : digitValue b d.digitChar = some d := by
  have hhex : ∀ e < 16, hexDigit (Nat.digitChar e) = some e := by decide
  simp [digitValue, hhex d (by omega), hd]

theorem digitsValue_append (b acc : Nat) (l m : List Char) :
    digitsValue b acc (l ++ m) = (digitsValue b acc l).bind fun v => digitsValue b v m := by
  induction l generalizing acc with
  | nil => rfl
  | cons c l ih =>
    simp only [List.cons_append, digitsValue]
    cases digitValue b c with
    | none => rfl
    | some d => exact ih _

/-- Reading inverts `Nat.toDigits`: the last digit is `n % b`, and the digits before it are those of `n / b`. -/
theorem digitsValue_toDigits {b : Nat} (hb : 1 < b) (hb16 : b ≤ 16) (n : Nat) :
    digitsValue b 0 (Nat.toDigits b n) = some n := by
  induction n using Nat.strongRecOn with
  | ind n ih =>
    by_cases hn : n < b
    · simp [Nat.toDigits_of_lt_base hn, digitsValue, digitValue_digitChar hb16 hn]
    · have hlast : n % b < b := Nat.mod_lt _ (by omega)
      have hrest : digitsValue b 0 (Nat.toDigits b (n / b)) = some (n / b) := ih _ (Nat.div_lt_self (by omega) hb)
      rw [Nat.toDigits_of_base_le hb (by omega), digitsValue_append, hrest]
      simp [digitsValue, digitValue_digitChar hb16 hlast, Nat.div_add_mod']

/-- A number in hexadecimal. -/
theorem parseLiteral_hex (n : Nat) : parseLiteral ('0' :: 'x' :: Nat.toDigits 16 n) = .ok n := by
  have hvalue := digitsValue_toDigits (b := 16) (by decide) (by decide) n
  cases hdigits : Nat.toDigits 16 n with
  | nil => exact absurd hdigits Nat.toDigits_ne_nil
  | cons c cs =>
    rw [hdigits] at hvalue
    simp [parseLiteral, hvalue]

/-! ### The characters of a decimal number -/

theorem isDigit_of_mem_decimal {n : Nat} {c : Char} (hc : c ∈ Nat.toDigits 10 n) : c.isDigit = true :=
  Nat.isDigit_of_mem_toDigits (by decide) (by decide) hc

theorem ne_of_mem_decimal {n : Nat} {c d : Char} (hc : c ∈ Nat.toDigits 10 n) (hd : d.isDigit = false) : c ≠ d := by
  rintro rfl
  rw [isDigit_of_mem_decimal hc] at hd
  cases hd

theorem isBlank_of_mem_decimal {n : Nat} {c : Char} (hc : c ∈ Nat.toDigits 10 n) : isBlank c = false := by
  simp [isBlank, ne_of_mem_decimal hc (d := ' ') rfl, ne_of_mem_decimal hc (d := '\t') rfl,
    ne_of_mem_decimal hc (d := '\r') rfl]

theorem map_toLower_decimal (n : Nat) : (Nat.toDigits 10 n).map Char.toLower = Nat.toDigits 10 n := by
  refine (List.map_congr_left fun c hc => ?_).trans (List.map_id _)
  have hdigit : 48 ≤ c.val ∧ c.val ≤ 57 := by simpa [Char.isDigit] using isDigit_of_mem_decimal hc
  have hupper : ¬ 65 ≤ c.val := fun h => absurd (UInt32.le_trans h hdigit.2) (by decide)
  simp [Char.toLower, hupper]

/-- A literal with no `x` in it is read in base ten. -/
theorem parseLiteral_of_digitsValue {l : List Char} {n : Nat} (hne : l ≠ []) (hx : 'x' ∉ l)
    (hvalue : digitsValue 10 0 l = some n) : parseLiteral l = .ok n := by
  unfold parseLiteral
  split
  next => exact absurd rfl hne
  next => exact absurd (by simp) hx
  next => exact absurd (by simp) hx
  next => simp [hvalue]

theorem parseLiteral_decimal (n : Nat) : parseLiteral (Nat.toDigits 10 n) = .ok n :=
  parseLiteral_of_digitsValue Nat.toDigits_ne_nil (fun hmem => ne_of_mem_decimal hmem rfl rfl)
    (digitsValue_toDigits (by decide) (by decide) n)

/-! ### Comments and words -/

theorem dropComment_append (l comment : List Char) : dropComment (l ++ ';' :: comment) = dropComment l := by
  induction l with
  | nil => rfl
  | cons c l ih =>
    simp only [dropComment, List.cons_append, List.takeWhile_cons] at ih ⊢
    rw [ih]

theorem dropComment_eq_self {l : List Char} (h : ';' ∉ l) : dropComment l = l := by
  refine List.takeWhile_eq_self_iff.mpr fun c hc => ?_
  simpa using ne_of_mem_of_not_mem hc h

theorem parseLine_append_comment (l comment : List Char) : parseLine (l ++ ';' :: comment) = parseLine l := by
  rw [parseLine, dropComment_append, parseLine]

theorem isBlank_of_isMnemonicChar {c : Char} (h : isMnemonicChar c = true) : isBlank c = false := by
  rw [isMnemonicChar, Bool.and_eq_true, Bool.not_eq_true'] at h
  exact h.1

/-- A word: one or more characters, no blank among them.  The lemmas below tie it to `trim`. -/
def IsWord (w : List Char) : Prop := w ≠ [] ∧ ∀ c ∈ w, isBlank c = false

theorem isWord_decimal (n : Nat) : IsWord (Nat.toDigits 10 n) :=
  ⟨Nat.toDigits_ne_nil, fun _ hc => isBlank_of_mem_decimal hc⟩

theorem IsWord.reverse {w : List Char} (hw : IsWord w) : IsWord w.reverse := by
  simpa [IsWord] using hw

theorem IsWord.trimStart_append {w : List Char} (hw : IsWord w) (l : List Char) : trimStart (w ++ l) = w ++ l := by
  obtain ⟨hne, hblank⟩ := hw
  cases w with
  | nil => exact absurd rfl hne
  | cons c w => simp [trimStart, hblank c (List.mem_cons_self ..)]

/-- A text that begins and ends with a word has no blank to take off. -/
theorem IsWord.trim_append_append {v w : List Char} (hv : IsWord v) (hw : IsWord w) (l : List Char) :
    trim (v ++ (l ++ w)) = v ++ (l ++ w) := by
  have hrev : (v ++ (l ++ w)).reverse = w.reverse ++ (v ++ l).reverse := by simp
  rw [trim, hv.trimStart_append, hrev, hw.reverse.trimStart_append, ← hrev, List.reverse_reverse]

theorem IsWord.trim {w : List Char} (hw : IsWord w) : trim w = w := by
  have hstart : trimStart w = w := by simpa using hw.trimStart_append []
  have hend : trimStart w.reverse = w.reverse := by simpa using hw.reverse.trimStart_append []
  rw [Machine.trim, hstart, hend, List.reverse_reverse]

theorem trim_blank_cons {c : Char} (hc : isBlank c = true) (l : List Char) : trim (c :: l) = trim l := by
  simp [trim, trimStart, hc]

/-! ### SEED -/

/-- The operands of SEED as `renderStmt` writes them. -/
def renderOperands (a b : Nat) : List Char := Nat.toDigits 10 a ++ ([',', ' '] ++ Nat.toDigits 10 b)

theorem renderStmt_seed (a b : Nat) : renderStmt (.seed a b) = ['S', 'E', 'E', 'D'] ++ ' ' :: renderOperands a b := by
  simp [renderStmt, renderOperands]

theorem map_toLower_renderStmt_seed (a b : Nat) :
    (renderStmt (.seed a b)).map Char.toLower = ['s', 'e', 'e', 'd'] ++ ' ' :: renderOperands a b := by
  simp [renderStmt_seed, renderOperands, map_toLower_decimal]

theorem trim_renderOperands (a b : Nat) : trim (renderOperands a b) = renderOperands a b :=
  (isWord_decimal a).trim_append_append (isWord_decimal b) _

theorem semicolon_not_mem_renderOperands (a b : Nat) : ';' ∉ renderOperands a b := by
  have hnot (n : Nat) : ';' ∉ Nat.toDigits 10 n := fun hmem => ne_of_mem_decimal hmem rfl rfl
  simp [renderOperands, hnot]

/-- The comma is found where the first operand ends, for no digit is one. -/
theorem parseSeed_renderOperands (a b : Nat) : parseSeed (renderOperands a b) = .ok (.seed a b) := by
  have hcomma : ∀ c ∈ Nat.toDigits 10 a, (c != ',') = true := fun c hc =>
    bne_iff_ne.mpr (ne_of_mem_decimal hc rfl)
  have hfirst : (renderOperands a b).takeWhile (· != ',') = Nat.toDigits 10 a := by
    rw [renderOperands, List.takeWhile_append_of_pos hcomma]
    simp
  have hsecond : (renderOperands a b).dropWhile (· != ',') = ',' :: ' ' :: Nat.toDigits 10 b := by
    rw [renderOperands, List.dropWhile_append_of_pos hcomma]
    simp
  have hone : (' ' :: Nat.toDigits 10 b).contains ',' = false := by
    simpa using fun hmem => ne_of_mem_decimal hmem rfl rfl
  simp only [parseSeed, hfirst, hsecond, hone, trim_blank_cons (c := ' ') rfl, (isWord_decimal _).trim,
    parseLiteral_decimal]
  rfl

/-- A line of SEED in either case of its letters: `mn` is the mnemonic as written. -/
theorem parseLine_seed {mn : List Char} (hupper : mn.map upper = ['S', 'E', 'E', 'D'])
    (hchars : ∀ c ∈ mn, isMnemonicChar c = true ∧ c ≠ ';') (a b : Nat) :
    parseLine (mn ++ ' ' :: renderOperands a b) = .ok (.seed a b) := by
  have hword : IsWord mn :=
    ⟨fun hnil => by simp [hnil] at hupper, fun c hc => isBlank_of_isMnemonicChar (hchars c hc).1⟩
  have hshape : ' ' :: renderOperands a b = ' ' :: (Nat.toDigits 10 a ++ [',', ' ']) ++ Nat.toDigits 10 b := by
    simp [renderOperands]
  have hcomment : ';' ∉ mn ++ ' ' :: renderOperands a b := by
    simpa [semicolon_not_mem_renderOperands] using fun hmem => (hchars _ hmem).2 rfl
  have hbody : trim (dropComment (mn ++ ' ' :: renderOperands a b)) = mn ++ ' ' :: renderOperands a b := by
    rw [dropComment_eq_self hcomment, hshape, hword.trim_append_append (isWord_decimal b)]
  have hmn : (mn ++ ' ' :: renderOperands a b).takeWhile isMnemonicChar = mn := by
    rw [List.takeWhile_append_of_pos fun c hc => (hchars c hc).1]
    simp [isMnemonicChar, isBlank]
  have hrest : (mn ++ ' ' :: renderOperands a b).dropWhile isMnemonicChar = ' ' :: renderOperands a b := by
    rw [List.dropWhile_append_of_pos fun c hc => (hchars c hc).1]
    simp [isMnemonicChar, isBlank]
  simp only [parseLine, hbody, hmn, hrest, hupper, trim_blank_cons (c := ' ') rfl, trim_renderOperands]
  exact parseSeed_renderOperands a b

/-! ### Every statement -/

theorem parseLine_renderStmt (st : Stmt) : parseLine (renderStmt st) = .ok st := by
  cases st with
  | seed a b =>
    rw [renderStmt_seed]
    exact parseLine_seed rfl (by simp [isMnemonicChar, isBlank]) a b
  | reset | idle | nop | advance | nextDouble => rfl

theorem parseLine_map_toLower_renderStmt (st : Stmt) : parseLine ((renderStmt st).map Char.toLower) = .ok st := by
  cases st with
  | seed a b =>
    rw [map_toLower_renderStmt_seed]
    exact parseLine_seed rfl (by simp [isMnemonicChar, isBlank]) a b
  | reset | idle | nop | advance | nextDouble => rfl

/-- Settles O42: every statement reads back in either case, and a comment is dropped before anything is read. -/
theorem listingTextReadsBack : Obligations.ListingTextReadsBack :=
  ⟨parseLine_renderStmt,
    fun st comment => (parseLine_append_comment (renderStmt st) comment).trans (parseLine_renderStmt st),
    parseLine_map_toLower_renderStmt, parseLiteral_hex, fun comment => parseLine_append_comment [] comment, rfl⟩

end Sys2Proof.Machine
end

section
/-! IDLE, NOP and SEED (spec/40_construction.md): what each leaves in the registers, and what a SEED forgets. -/

namespace Sys2Proof.Machine

/-! ### One step of a presented command -/

theorem step_of_decode {c : CmdPort} {i : Instr} (hi : decode c = i) (s : State) (rest : List Inputs) :
    step { s with inputs := ⟨false, c⟩ :: rest } = .next (execState i (s.present rest)) := by
  rw [step_cons rfl, edgeState_of_not_rst _ rfl, hi]
  rfl

/-- Settles O13. -/
theorem idleOnlyClearsResponseValid : Obligations.IdleOnlyClearsResponseValid :=
  fun s => ⟨exec_idle s, fun op a b rest => step_of_decode (decode_invalid op a b) s rest⟩

/-- Settles O14. -/
theorem nopHasTheEffectOfIdle : Obligations.NopHasTheEffectOfIdle :=
  fun s => ⟨exec_nop s, (exec_nop s).trans (exec_idle s).symm, fun a b rest => step_of_decode (decode_nop a b) s rest⟩

/-- Settles O15. -/
theorem seedLoadsBothWords : Obligations.SeedLoadsBothWords :=
  fun s a b => ⟨exec_seed a b s, fun rest => step_of_decode (decode_seed a b) s rest⟩

theorem edgeState_seed (a b : Word) (s : State) :
    edgeState ⟨false, ⟨true, 0b01#2, a, b⟩⟩ s = ((s.setWords a b).markSeeded).noResponse := by
  rw [edgeState_of_not_rst s rfl, decode_seed]
  rfl

/-! ### Runs from equal transaction-level states

`rsp_op` and `rsp_data` are outside `State.txn`: a SEED leaves them (R85), and no command reads them. -/

theorem edgeState_txn (p : Inputs) (s : State) : (edgeState p s).txn = (txnEdge s.txn p).1 := by
  rw [txnEdge_txn]

theorem edgesState_txn (ins : List Inputs) (s : State) : (edgesState ins s).txn = (txnRun s.txn ins).1 := by
  rw [txnRun_txn]

theorem map_responseOf_observed (ins : List Inputs) (s : State) :
    (observed ins s).map responseOf = (txnRun s.txn ins).2 := by
  rw [txnRun_txn]

/-- `txnRun` lists the responses only, so `seeded_o` is followed edge by edge. -/
theorem map_seededO_observed_congr {s t : State} (h : s.txn = t.txn) (ins : List Inputs) :
    (observed ins s).map Outputs.seededO = (observed ins t).map Outputs.seededO := by
  induction ins generalizing s t with
  | nil => rfl
  | cons p ins ih =>
    have hp : (edgeState p s).txn = (edgeState p t).txn := by rw [edgeState_txn, edgeState_txn, h]
    have hseeded : (edgeState p s).outputs.seededO = (edgeState p t).outputs.seededO := congrArg TxnState.seeded hp
    rw [observed_cons, observed_cons, List.map_cons, List.map_cons, hseeded, ih hp]

/-- A SEED leaves the same transaction-level state whatever stood before (R84). -/
theorem edgeState_seed_txn (a b : Word) (s : State) :
    (edgeState ⟨false, ⟨true, 0b01#2, a, b⟩⟩ s).txn = { word0 := a, word1 := b, seeded := true } := by
  simp [edgeState_seed]

/-- Settles O36: SEED's edge shows no response and `seeded_o = 1`, and leaves equal transaction-level states, from which
runs show the same. -/
theorem seedForgetsEverythingBefore : Obligations.SeedForgetsEverythingBefore := by
  intro s t a b ins
  have htxn : (edgeState ⟨false, ⟨true, 0b01#2, a, b⟩⟩ s).txn = (edgeState ⟨false, ⟨true, 0b01#2, a, b⟩⟩ t).txn := by
    rw [edgeState_seed_txn, edgeState_seed_txn]
  refine ⟨?_, ?_, _, _, after_eq _ s, after_eq _ t, ?_⟩
  · simp only [observed_cons, List.map_cons, map_responseOf_observed, htxn]
    simp only [edgeState_seed, responseOf_noResponse]
  · simp only [observed_cons, List.map_cons, map_seededO_observed_congr htxn ins]
    simp [State.outputs, edgeState_seed]
  · have hend : (edgesState (⟨false, ⟨true, 0b01#2, a, b⟩⟩ :: ins) s).txn =
        (edgesState (⟨false, ⟨true, 0b01#2, a, b⟩⟩ :: ins) t).txn := by
      simp only [edgesState_cons, edgesState_txn, htxn]
    exact ⟨congrArg TxnState.word0 hend, congrArg TxnState.word1 hend⟩

/-! ### Zero words -/

/-- Every output seen along a run is that of one of its edges, from a state with what each edge keeps. -/
theorem exists_edge_of_mem_observed {P : State → Prop} {ins : List Inputs} {s : State} {o : Outputs}
    (hkeep : ∀ p ∈ ins, ∀ t, P t → P (edgeState p t)) (hs : P s) (ho : o ∈ observed ins s) :
    ∃ p ∈ ins, ∃ t, P t ∧ o = (edgeState p t).outputs := by
  induction ins generalizing s with
  | nil => cases ho
  | cons p ins ih =>
    obtain ⟨hp, hins⟩ := List.forall_mem_cons.mp hkeep
    rw [observed_cons, List.mem_cons] at ho
    obtain rfl | ho := ho
    · exact ⟨p, List.mem_cons_self .., s, hs, rfl⟩
    · obtain ⟨q, hq, hlater⟩ := ih hins (hp s hs) ho
      exact ⟨q, List.mem_cons_of_mem p hq, hlater⟩

/-- Both state words are 0. -/
def State.ZeroWords (s : State) : Prop := s.word0 = 0 ∧ s.word1 = 0

/-- R112, for one command: other than SEED it keeps zero words, and a response it gives is 0. -/
theorem execState_of_zeroWords {i : Instr} {s : State} (hs : s.ZeroWords) (hseed : i.isSeed = false) :
    (execState i s).ZeroWords ∧ ((execState i s).rspValid = true → (execState i s).rspData = 0) := by
  have hnext : xsNext s.word0 s.word1 = { word0 := 0, word1 := 0, raw := 0 } := by
    obtain ⟨h0, h1⟩ := hs
    rw [h0, h1, xsNext_zero]
  cases i with
  | idle | nop => exact ⟨hs, nofun⟩
  | seed a b => cases hseed
  | advance => simp [execState, State.ZeroWords, hnext]
  | nextDouble => simp [execState, State.ZeroWords, hnext, mantissa, and64]

/-- The same for one edge; a reset brings zero words and no response. -/
theorem edgeState_of_zeroWords {p : Inputs} {s : State} (hs : s.ZeroWords) (hseed : seeds p = false) :
    (edgeState p s).ZeroWords ∧ ((edgeState p s).rspValid = true → (edgeState p s).rspData = 0) := by
  cases hrst : p.rst with
  | true =>
    rw [edgeState_of_rst s hrst]
    exact ⟨⟨rfl, rfl⟩, nofun⟩
  | false =>
    rw [edgeState_of_not_rst s hrst]
    exact execState_of_zeroWords hs (by simpa [seeds_eq, hrst] using hseed)

theorem observed_of_zeroWords {ins : List Inputs} {s : State} (hs : s.ZeroWords) (hseed : ∀ p ∈ ins, seeds p = false) :
    ∀ o ∈ observed ins s, o.rspValid = true → o.rspData = 0 := by
  intro o ho
  obtain ⟨p, hp, t, ht, rfl⟩ :=
    exists_edge_of_mem_observed (P := State.ZeroWords) (fun p hp t ht => (edgeState_of_zeroWords ht (hseed p hp)).1) hs ho
  exact (edgeState_of_zeroWords ht (hseed p hp)).2

/-! ### The operands of SEED -/

theorem exec_seed_inj {a b c d : Word} {s : State} (h : exec (.seed a b) s = exec (.seed c d) s) : a = c ∧ b = d := by
  rw [exec_seed, exec_seed] at h
  injection h with hstate
  exact ⟨congrArg State.word0 hstate, congrArg State.word1 hstate⟩

/-- Settles O16: SEED's edge shows no response, and zero words answer 0 from there on; `exec_seed_inj` tells the order of
the operands. -/
theorem seedAcceptsEveryPairInOrder : Obligations.SeedAcceptsEveryPairInOrder := by
  refine ⟨fun s a b => ⟨_, exec_seed a b s, rfl, rfl⟩, fun s ins hseed o ho hvalid => ?_,
    fun s a b => ⟨fun h => (exec_seed_inj h).1, fun h => by rw [h]⟩⟩
  rw [observed_cons, edgeState_seed, List.mem_cons] at ho
  obtain rfl | ho := ho
  · cases hvalid
  · exact observed_of_zeroWords ⟨rfl, rfl⟩ hseed o ho hvalid

end Sys2Proof.Machine
end

section
/-! The words of R101 to R105 and the transition of R108 to R113: the operations bit by bit, the inverse of the transition,
and what a run without SEED keeps of the words. -/

namespace Sys2Proof.Machine

/-! ### The operations on words -/

theorem shl64_toNat (a : Word) (k : Nat) : (shl64 a k).toNat = a.toNat * 2 ^ k % 2 ^ 64 := BitVec.toNat_ofNat ..

/-- A left shift fills with 0 from below. -/
theorem shl64_getLsbD_of_lt (a : Word) {k i : Nat} (hi : i < k) : (shl64 a k).getLsbD i = false := by
  simp [shl64_eq, BitVec.getLsbD_shiftLeft, hi]

theorem lshr64_toNat (a : Word) (k : Nat) : (lshr64 a k).toNat = a.toNat / 2 ^ k := by
  rw [lshr64_eq, BitVec.toNat_ushiftRight, Nat.shiftRight_eq_div_pow]

/-- A right shift fills with 0 from above, whatever bit 63 is. -/
theorem lshr64_getLsbD_of_le (a : Word) {k i : Nat} (hi : 64 - k ≤ i) : (lshr64 a k).getLsbD i = false := by
  rw [lshr64_eq, BitVec.getLsbD_ushiftRight]
  exact BitVec.getLsbD_of_ge a _ (by omega)

/-- Settles O20: each operation as a number, its fill bits, and the rules' corner cases by evaluation. -/
theorem wordOperationsWrapModulo64Bits : Obligations.WordOperationsWrapModulo64Bits := by
  refine ⟨fun a k _ => ⟨shl64_toNat a k, fun i hi => shl64_getLsbD_of_lt a hi, lshr64_toNat a k,
    fun i hi => lshr64_getLsbD_of_le a hi⟩, fun a b => BitVec.toNat_ofNat .., fun a => ?_,
    by decide, by decide, by decide, by decide, by decide⟩
  rw [add64_eq]
  exact BitVec.add_zero a

/-- Settles O21: the four values the two bits can take. -/
theorem bitwiseOperationsActOnEachBit : Obligations.BitwiseOperationsActOnEachBit := by
  intro a b i _
  rw [xor64_eq, and64_eq, BitVec.getLsbD_xor, BitVec.getLsbD_and]
  cases a.getLsbD i <;> cases b.getLsbD i <;> decide

/-! ### ADVANCE -/

/-- Settles O17: `exec_advance` with the transition on bit vectors, and the same of a step. -/
theorem advanceStepsWordsAndReturnsRaw : Obligations.AdvanceStepsWordsAndReturnsRaw := by
  intro s t w1
  have hstate : execState .advance s = { s with
      word0 := s.word1, word1 := w1, rspValid := true, rspOp := 0b10#2, rspData := w1 + s.word1 } := by
    rw [execState, xsNext_eq]
    rfl
  refine ⟨(exec_eq .advance s).trans (congrArg _ hstate), fun a b rest => ?_⟩
  rw [step_of_decode (decode_advance a b), execState_present, hstate]
  rfl

/-! ### The inverse of the transition

The new `word1` folds the old `word0` into itself by a left shift and then by a right shift.  Each fold XORs a word with
a shift of it; its inverse XORs the multiples of that shift until nothing is left in the word. -/

/-- `t` of R108. -/
def foldLeft (v : Word) : Word := v ^^^ v <<< 23

/-- `s1` from `t` (R113). -/
def unfoldLeft (v : Word) : Word := v ^^^ v <<< 23 ^^^ v <<< 46

/-- What R108 makes of `t` before `s0` enters: `y` of R113. -/
def foldRight (v : Word) : Word := v ^^^ v >>> 17

/-- `t` from `y` (R113). -/
def unfoldRight (v : Word) : Word := v ^^^ v >>> 17 ^^^ v >>> 34 ^^^ v >>> 51

/-- What the old `word1` brings into the new one. -/
def oldWord1Part (v : Word) : Word := v ^^^ v >>> 26

theorem unfoldLeft_foldLeft (v : Word) : unfoldLeft (foldLeft v) = v := by
  have hout : v <<< 69 = 0#64 := BitVec.shiftLeft_eq_zero (by decide)
  simp [unfoldLeft, foldLeft, BitVec.shiftLeft_xor_distrib, ← BitVec.shiftLeft_add, BitVec.xor_assoc, hout]

theorem unfoldRight_foldRight (v : Word) : unfoldRight (foldRight v) = v := by
  have hout : v >>> 68 = 0#64 := BitVec.ushiftRight_eq_zero (by decide)
  simp [unfoldRight, foldRight, BitVec.ushiftRight_xor_distrib, ← BitVec.shiftRight_add, BitVec.xor_assoc, hout]

/-- The state part of `xs_next` on pairs of words. -/
def nextWords (w : Word × Word) : Word × Word := ((xsNext w.1 w.2).word0, (xsNext w.1 w.2).word1)

/-- `xsPrev` on pairs of words. -/
def prevWords (w : Word × Word) : Word × Word := xsPrev w.1 w.2

theorem nextWords_eq (w : Word × Word) : nextWords w = (w.2, foldRight (foldLeft w.1) ^^^ oldWord1Part w.2) := by
  rw [nextWords, xsNext_eq, foldRight, foldLeft, oldWord1Part, BitVec.xor_assoc _ w.2, BitVec.xor_comm w.2]
  simp only [BitVec.xor_assoc]

theorem prevWords_eq (w : Word × Word) :
    prevWords w = (unfoldLeft (unfoldRight (w.2 ^^^ oldWord1Part w.1)), w.1) := by
  simp only [prevWords, xsPrev, xor64_eq, shl64_eq, lshr64_eq, unfoldLeft, unfoldRight, oldWord1Part, BitVec.xor_assoc]

theorem prevWords_nextWords : Function.LeftInverse prevWords nextWords := by
  intro w
  rw [prevWords_eq, nextWords_eq]
  simp only [BitVec.xor_assoc, BitVec.xor_self, BitVec.xor_zero, unfoldRight_foldRight, unfoldLeft_foldLeft]

/-- There are finitely many pairs of words, so the inverse on one side is the inverse on the other. -/
theorem nextWords_prevWords : Function.RightInverse prevWords nextWords :=
  prevWords_nextWords.rightInverse_of_card_le le_rfl

theorem nextWords_injective : Function.Injective nextWords := prevWords_nextWords.injective

/-- Settles O22: each fold is undone by its inverse, so `prevWords` inverts `nextWords`, on both sides. -/
theorem transitionIsInvertedByItsInverse : Obligations.TransitionIsInvertedByItsInverse :=
  ⟨fun w0 w1 => prevWords_nextWords (w0, w1),
    fun w0 w1 => Prod.mk.inj (nextWords_prevWords (w0, w1)),
    nextWords_injective, nextWords_prevWords.surjective⟩

/-! ### The words along a run -/

/-- The two state words. -/
def State.words (s : State) : Word × Word := (s.word0, s.word1)

theorem State.words_eq_iff {s t : State} : s.words = t.words ↔ s.word0 = t.word0 ∧ s.word1 = t.word1 := Prod.mk_inj

/-- Every command other than SEED makes one transition of the words, or none. -/
theorem execState_words {i : Instr} (s : State) (hseed : i.isSeed = false) :
    (execState i s).words = if i.isGenerating then nextWords s.words else s.words := by
  cases i with
  | idle | nop | advance | nextDouble => rfl
  | seed a b => cases hseed

/-- R113, for one edge: without reset and SEED it keeps different words different. -/
theorem edgeState_words_inj {p : Inputs} {s t : State} (hrst : p.rst = false) (hseed : seeds p = false) :
    (edgeState p s).words = (edgeState p t).words ↔ s.words = t.words := by
  have hi : (decode p.cmd).isSeed = false := by simpa [seeds_eq, hrst] using hseed
  rw [edgeState_of_not_rst s hrst, edgeState_of_not_rst t hrst, execState_words s hi, execState_words t hi]
  split
  · exact nextWords_injective.eq_iff
  · rfl

theorem edgesState_words_inj {ins : List Inputs} {s t : State} (hins : ∀ p ∈ ins, p.rst = false ∧ seeds p = false) :
    (edgesState ins s).words = (edgesState ins t).words ↔ s.words = t.words := by
  induction ins generalizing s t with
  | nil => rfl
  | cons p ins ih =>
    obtain ⟨⟨hrst, hseed⟩, hrest⟩ := List.forall_mem_cons.mp hins
    rw [edgesState_cons, edgesState_cons, ih hrest, edgeState_words_inj hrst hseed]

/-- A command reads the words alone: equal words give equal words and equal responses, whatever `seeded` and the response
registers held. -/
theorem execState_congr_words (i : Instr) {s t : State} (h : s.words = t.words) :
    (execState i s).words = (execState i t).words ∧
    responseOf (execState i s).outputs = responseOf (execState i t).outputs := by
  obtain ⟨h0, h1⟩ := State.words_eq_iff.mp h
  cases i with
  | idle | nop => exact ⟨h, rfl⟩
  | seed a b => exact ⟨rfl, rfl⟩
  | advance | nextDouble => simp [execState, State.words, h0, h1]

theorem edgeState_congr_words (p : Inputs) {s t : State} (h : s.words = t.words) :
    (edgeState p s).words = (edgeState p t).words ∧
    responseOf (edgeState p s).outputs = responseOf (edgeState p t).outputs := by
  unfold edgeState
  split
  · exact ⟨rfl, rfl⟩
  · exact execState_congr_words _ h

theorem map_responseOf_observed_congr {s t : State} (h : s.words = t.words) (ins : List Inputs) :
    (observed ins s).map responseOf = (observed ins t).map responseOf := by
  induction ins generalizing s t with
  | nil => rfl
  | cons p ins ih =>
    obtain ⟨hwords, hresponse⟩ := edgeState_congr_words p h
    rw [observed_cons, observed_cons, List.map_cons, List.map_cons, hresponse, ih hwords]

/-- Settles O23: each edge is injective on the words, and what it shows depends on them alone. -/
theorem runsKeepDifferentStatesDifferent : Obligations.RunsKeepDifferentStatesDifferent := by
  intro s t ins hins
  refine ⟨_, _, after_eq ins s, after_eq ins t, ?_, fun h => ?_⟩
  · rw [← State.words_eq_iff, ← State.words_eq_iff]
    exact edgesState_words_inj hins
  · exact map_responseOf_observed_congr (State.words_eq_iff.mpr h) ins

/-! ### Zero words along a run -/

theorem edgesState_of_zeroWords {ins : List Inputs} {s : State} (hs : s.ZeroWords)
    (hseed : ∀ p ∈ ins, seeds p = false) : (edgesState ins s).ZeroWords :=
  edgesState_keeps (fun p hp _ ht => (edgeState_of_zeroWords ht (hseed p hp)).1) hs

/-- Settles O25: every edge other than SEED keeps zero words, and shows no response but 0. -/
theorem zeroWordsAnswerZeroForever : Obligations.ZeroWordsAnswerZeroForever :=
  fun s ins h0 h1 hseed =>
    ⟨⟨_, after_eq ins s, edgesState_of_zeroWords ⟨h0, h1⟩ hseed⟩, observed_of_zeroWords ⟨h0, h1⟩ hseed⟩

/-- The reset state runs to zero words, and by `edgesState_words_inj` no other words run there. -/
theorem edgesState_zeroWords_iff {ins : List Inputs} {s : State} (hins : ∀ p ∈ ins, p.rst = false ∧ seeds p = false) :
    (edgesState ins s).ZeroWords ↔ s.ZeroWords := by
  refine ⟨fun hend => ?_, fun hs => edgesState_of_zeroWords hs fun p hp => (hins p hp).2⟩
  obtain ⟨hreset0, hreset1⟩ : (edgesState ins State.reset).ZeroWords :=
    edgesState_of_zeroWords ⟨rfl, rfl⟩ fun p hp => (hins p hp).2
  obtain ⟨hend0, hend1⟩ := hend
  have hsame : (edgesState ins s).words = (edgesState ins State.reset).words :=
    State.words_eq_iff.mpr ⟨hend0.trans hreset0.symm, hend1.trans hreset1.symm⟩
  exact State.words_eq_iff.mp ((edgesState_words_inj hins).mp hsame)

/-- Settles O24: by `edgesState_zeroWords_iff` a run that ends in zero words began with them. -/
theorem nonzeroWordsNeverBecomeZero : Obligations.NonzeroWordsNeverBecomeZero := by
  intro s ins hs hins
  refine ⟨_, after_eq ins s, ?_⟩
  by_contra hno
  have hend : (edgesState ins s).ZeroWords := by simpa [State.ZeroWords, not_or] using hno
  obtain ⟨h0, h1⟩ := (edgesState_zeroWords_iff hins).mp hend
  exact hs.elim (· h0) (· h1)

end Sys2Proof.Machine
end

section
/-! NEXT_DOUBLE (spec/42_next_double.md): the mantissa, the pattern's fields and the number they denote, and the
command.  The fraction field and the number both come from the significand, the mantissa shifted until its leading 1
stands at bit 52. -/

namespace Sys2Proof.Machine

/-! ### The mantissa -/

theorem mantissa_toNat_lt (raw : Word) : (mantissa raw).toNat < 2 ^ 53 :=
  (mantissa_toNat raw).trans_lt (Nat.mod_lt _ (by decide))

theorem mantissa_toNat_eq_extractLsb' (raw : Word) : (mantissa raw).toNat = (raw.extractLsb' 0 53).toNat := by
  rw [mantissa_toNat, BitVec.extractLsb'_toNat, Nat.shiftRight_zero]

/-- Settles O26: the AND is the remainder modulo 2^53 (`mantissa_toNat`), which the low 53 bits determine. -/
theorem mantissaIsLow53BitsOfRaw : Obligations.MantissaIsLow53BitsOfRaw := by
  intro raw
  refine ⟨rfl, ?_, Nat.le_pred_of_lt (mantissa_toNat_lt raw), fun other hlow => BitVec.eq_of_toNat_eq ?_⟩
  · rw [mantissa_toNat, bitField, Nat.pow_zero, Nat.div_one]
  · rw [mantissa_toNat_eq_extractLsb', mantissa_toNat_eq_extractLsb', hlow]

/-! ### The significand: the mantissa with its leading 1 at bit 52 -/

/-- `m · 2^(52 - p)`, the number `F` of R134 drops the leading 1 of (`fraction_toNat`). -/
def significand (m : Word) : Nat := m.toNat * 2 ^ (52 - topBit m)

theorem two_pow_topBit_le {m : Word} (hm : m ≠ 0) : 2 ^ topBit m ≤ m.toNat := by
  rw [topBit_eq_log2 hm]
  exact Nat.log2_self_le (BitVec.toNat_ne.mp hm)

theorem lt_two_pow_topBit_succ {m : Word} (hm : m ≠ 0) : m.toNat < 2 ^ (topBit m + 1) := by
  rw [topBit_eq_log2 hm]
  exact Nat.lt_log2_self

theorem topBit_mono {m n : Word} (hm : m ≠ 0) (hn : n ≠ 0) (hmn : m.toNat ≤ n.toNat) : topBit m ≤ topBit n := by
  have hpow : 2 ^ topBit m < 2 ^ (topBit n + 1) :=
    (two_pow_topBit_le hm).trans_lt (hmn.trans_lt (lt_two_pow_topBit_succ hn))
  exact Nat.le_of_lt_succ ((Nat.pow_lt_pow_iff_right (by decide)).mp hpow)

theorem significand_mul_two_pow_topBit {m : Word} (hm : m ≠ 0) (hlt : m.toNat < 2 ^ 53) :
    significand m * 2 ^ topBit m = m.toNat * 2 ^ 52 := by
  rw [significand, Nat.mul_assoc, ← Nat.pow_add, Nat.sub_add_cancel (topBit_le_of_lt hm hlt)]

theorem le_significand {m : Word} (hm : m ≠ 0) (hlt : m.toNat < 2 ^ 53) : 2 ^ 52 ≤ significand m := by
  calc 2 ^ 52 = 2 ^ topBit m * 2 ^ (52 - topBit m) := by
        rw [← Nat.pow_add, Nat.add_sub_cancel' (topBit_le_of_lt hm hlt)]
    _ ≤ significand m := Nat.mul_le_mul_right _ (two_pow_topBit_le hm)

theorem significand_lt {m : Word} (hm : m ≠ 0) (hlt : m.toNat < 2 ^ 53) : significand m < 2 ^ 53 := by
  have hp := topBit_le_of_lt hm hlt
  calc significand m < 2 ^ (topBit m + 1) * 2 ^ (52 - topBit m) :=
        Nat.mul_lt_mul_of_pos_right (lt_two_pow_topBit_succ hm) (Nat.two_pow_pos _)
    _ = 2 ^ 53 := by rw [← Nat.pow_add]; congr 1; omega

/-- `F` of R134 as a number, for every word: the cut to 64 bits in `shl64` loses none of the low 52. -/
theorem fraction_toNat (m : Word) : (fraction m).toNat = significand m % 2 ^ 52 := by
  rw [fraction, and64_eq, BitVec.toNat_and, shl64_toNat, significand,
    show (0x000FFFFFFFFFFFFF#64 : Word).toNat = 2 ^ 52 - 1 by decide, Nat.and_two_pow_sub_one_eq_mod]
  exact Nat.mod_mod_of_dvd _ (Nat.pow_dvd_pow 2 (by decide))

/-! ### The pattern as a number -/

/-- R134's `E·2^52 + F`, with `F` the significand less its leading 1. -/
theorem toBinary64_toNat_eq {m : Word} (hm : m ≠ 0) (hlt : m.toNat < 2 ^ 53) :
    (toBinary64 m).toNat = (970 + topBit m) * 2 ^ 52 + (significand m - 2 ^ 52) := by
  have hlow := le_significand hm hlt
  have hhigh := significand_lt hm hlt
  rw [toBinary64_toNat hm hlt, fraction_toNat, biasedExponent]
  omega

theorem bitField_fraction_toBinary64 {m : Word} (hm : m ≠ 0) (hlt : m.toNat < 2 ^ 53) :
    bitField (toBinary64 m) 51 0 = significand m - 2 ^ 52 := by
  have hhigh := significand_lt hm hlt
  rw [bitField, toBinary64_toNat_eq hm hlt]
  omega

/-- Settles O27: `toBinary64_toNat` with `p` as the index of the highest 1 bit, and the examples by evaluation. -/
theorem doublePatternFollowsHighestBit : Obligations.DoublePatternFollowsHighestBit := by
  refine ⟨toBinary64_zero, fun m p hp hlow hhigh => ?_, by decide, by decide, by decide⟩
  have hm : m ≠ 0 := by
    rintro rfl
    exact absurd hlow (Nat.not_le.mpr (Nat.two_pow_pos p))
  have hlt : m.toNat < 2 ^ 53 := hhigh.trans_le (Nat.pow_le_pow_right (by decide) (Nat.succ_le_succ hp))
  rw [toBinary64_toNat hm hlt, fraction_toNat, Nat.mod_mod, biasedExponent, significand, topBit_eq m p hlow hhigh]

/-- R135: the exponent fields order two patterns, and where they agree the significands do. -/
theorem toBinary64_toNat_strictMono {m n : Word} (hmn : m.toNat < n.toNat) (hlt : n.toNat < 2 ^ 53) :
    (toBinary64 m).toNat < (toBinary64 n).toNat := by
  have hn : n ≠ 0 := BitVec.toNat_ne.mpr (Nat.ne_zero_of_lt hmn)
  by_cases hm : m = 0
  · subst hm
    rw [toBinary64_toNat_eq hn hlt]
    exact Nat.add_pos_left (by omega) _
  have hmlt := hmn.trans hlt
  have hlow := le_significand hm hmlt
  have hhigh := significand_lt hm hmlt
  rw [toBinary64_toNat_eq hm hmlt, toBinary64_toNat_eq hn hlt]
  rcases (topBit_mono hm hn hmn.le).lt_or_eq with hp | hp
  · omega
  · have hsig : significand m < significand n := by
      rw [significand, significand, hp]
      exact Nat.mul_lt_mul_of_pos_right hmn (Nat.two_pow_pos _)
    omega

/-! ### The number a pattern denotes -/

/-- The value of a normal number with sign 0 (R43, assumption log 8). -/
theorem binary64Value_of_normal {d : Word} (hsign : bitField d 63 63 = 0) (hpos : 0 < bitField d 62 52)
    (hfin : bitField d 62 52 < 2047) :
    binary64Value d = some ((1 + (bitField d 51 0 : Rat) / 2 ^ 52) * 2 ^ ((bitField d 62 52 : Int) - 1023)) := by
  simp [binary64Value, hsign, hpos.ne', hfin.ne]

theorem binary64Value_zero : binary64Value 0#64 = some 0 := by
  simp [binary64Value, bitField]

theorem one_add_fraction_eq {m : Word} (hm : m ≠ 0) (hlt : m.toNat < 2 ^ 53) :
    1 + ((significand m - 2 ^ 52 : Nat) : Rat) / 2 ^ 52 = significand m / 2 ^ 52 := by
  rw [Nat.cast_sub (le_significand hm hlt)]
  field_simp
  push_cast
  ring

theorem two_zpow_exponent_eq (p : Nat) : (2 : Rat) ^ (((970 + p : Nat) : Int) - 1023) = 2 ^ p / 2 ^ 53 := by
  rw [show ((970 + p : Nat) : Int) - 1023 = (p : Int) - (53 : Nat) by omega, zpow_sub₀ two_ne_zero, zpow_natCast,
    zpow_natCast]

/-- R133: the shift that made the significand and the exponent field cancel. -/
theorem binary64Value_toBinary64 {m : Word} (hlt : m.toNat < 2 ^ 53) :
    binary64Value (toBinary64 m) = some ((m.toNat : Rat) / 2 ^ 53) := by
  by_cases hm : m = 0
  · subst hm
    simp [binary64Value_zero]
  have hE := bitField_exponent_toBinary64 hm hlt
  have hp := topBit_le_of_lt hm hlt
  have hscale : (significand m : Rat) * 2 ^ topBit m = m.toNat * 2 ^ 52 := by
    exact_mod_cast significand_mul_two_pow_topBit hm hlt
  rw [binary64Value_of_normal (bitField_sign_toBinary64 hm hlt) (by omega) (by omega), hE,
    bitField_fraction_toBinary64 hm hlt, one_add_fraction_eq hm hlt, two_zpow_exponent_eq, div_mul_div_comm, hscale,
    mul_comm _ ((2 : Rat) ^ 53), mul_div_mul_right _ _ (by norm_num)]

theorem binary64Value_toBinary64_mantissa (raw : Word) :
    binary64Value (toBinary64 (mantissa raw)) = some (((raw.toNat % 2 ^ 53 : Nat) : Rat) / 2 ^ 53) := by
  rw [binary64Value_toBinary64 (mantissa_toNat_lt raw), mantissa_toNat]

/-- Settles O28: `binary64Value_toBinary64`, and NEXT_DOUBLE's raw word as the sum of the new and the old `word1`. -/
theorem doubleDenotesMantissaOverTwoTo53 : Obligations.DoubleDenotesMantissaOverTwoTo53 := by
  refine ⟨fun m => binary64Value_toBinary64, fun s => ⟨_, exec_nextDouble s, ?_⟩⟩
  have hraw : (xsNext s.word0 s.word1).raw = (xsNext s.word0 s.word1).word1 + s.word1 := xsNext_raw ..
  simpa [hraw] using binary64Value_toBinary64_mantissa (xsNext s.word0 s.word1).raw

theorem toBinary64_eq_zero_iff {m : Word} (hlt : m.toNat < 2 ^ 53) : toBinary64 m = 0 ↔ m = 0 := by
  refine ⟨fun h => ?_, by rintro rfl; rfl⟩
  by_contra hm
  have hmono : (toBinary64 0).toNat < (toBinary64 m).toNat :=
    toBinary64_toNat_strictMono (Nat.pos_of_ne_zero (BitVec.toNat_ne.mp hm)) hlt
  rw [h] at hmono
  exact absurd hmono (Nat.not_lt_zero _)

/-- Settles O29: the range and the zero from `m / 2^53`, the fields from R134, and `toBinary64_toNat_strictMono`. -/
theorem doubleLiesInHalfOpenUnitInterval : Obligations.DoubleLiesInHalfOpenUnitInterval := by
  refine ⟨fun m hlt => ⟨⟨_, binary64Value_toBinary64 hlt, by positivity, ?_, ?_⟩, toBinary64_eq_zero_iff hlt, ?_, ?_⟩,
    fun m n => toBinary64_toNat_strictMono⟩
  · have hle : (m.toNat : Rat) + 1 ≤ 2 ^ 53 := by exact_mod_cast hlt
    rw [le_sub_iff_add_le, ← add_div]
    exact (div_le_one (by norm_num)).mpr hle
  · simp [← BitVec.toNat_inj]
  · by_cases hm : m = 0
    · subst hm; rfl
    · exact bitField_sign_toBinary64 hm hlt
  · intro hm
    have hp := topBit_le_of_lt hm hlt
    rw [bitField_exponent_toBinary64 hm hlt]
    omega

/-! ### NEXT_DOUBLE -/

/-- R137: the state change of ADVANCE, and the double in place of its raw word. -/
theorem execState_nextDouble (s : State) :
    execState .nextDouble s =
      (execState .advance s).respond 0b11#2 (toBinary64 (mantissa (execState .advance s).rspData)) := rfl

/-- Settles O18: ADVANCE's registers (O17) with NEXT_DOUBLE's response, and the same of a step. -/
theorem nextDoubleStepsWordsAndReturnsDouble : Obligations.NextDoubleStepsWordsAndReturnsDouble := by
  intro s t w1 d
  have hstate : execState .nextDouble s = { s with
      word0 := s.word1, word1 := w1, rspValid := true, rspOp := 0b11#2, rspData := d } := by
    obtain ⟨hadvance, -⟩ := advanceStepsWordsAndReturnsRaw s
    rw [exec_eq, Host.Outcome.next.injEq] at hadvance
    rw [execState_nextDouble, hadvance]
    rfl
  refine ⟨(exec_eq .nextDouble s).trans (congrArg _ hstate), fun a b rest => ?_⟩
  rw [step_of_decode (decode_nextDouble a b), execState_present, hstate]
  rfl

end Sys2Proof.Machine
end

section
/-! Exceptions, blocks and a stopped clock (spec/60_exceptions.md): every command, step and run completes, a block's edge
touches that block alone, and a reset leaves nothing of the past to see. -/

namespace Sys2Proof.Machine

/-! ### No command, step or run stops the machine (R150, R162) -/

@[simp] theorem execState_inputs (i : Instr) (s : State) : (execState i s).inputs = s.inputs := by
  cases i <;> rfl

theorem exists_step_eq_next (s : State) : ∃ t, step s = .next t := ⟨_, step_eq s⟩

theorem exists_run_eq_next (n : Nat) (s : State) : ∃ t, run n s = .next t := by
  induction n generalizing s with
  | zero => exact ⟨s, rfl⟩
  | succ n ih =>
    obtain ⟨t, hstep⟩ := exists_step_eq_next s
    rw [run_succ_of_next hstep]
    exact ih t

/-- Settles O6: `exec` answers `execState`, a step and so every run answers a next state, and `Fault` has no
constructor. -/
theorem everyCommandAndRunCompletes : Obligations.EveryCommandAndRunCompletes :=
  ⟨fun i s => ⟨_, exec_eq i s, execState_inputs i s⟩, exists_step_eq_next, exists_run_eq_next, nofun⟩

/-- Settles O5. -/
theorem stoppedClockHoldsEveryRegister : Obligations.StoppedClockHoldsEveryRegister := fun _ => step_nil

/-! ### Several blocks (R159, R160) -/

theorem stepBlock_of_none {blocks : List State} {k : Nat} (hk : blocks[k]? = none) :
    stepBlock k blocks = .next blocks := by
  simp [stepBlock, hk]

theorem stepBlock_of_step {blocks : List State} {k : Nat} {s t : State} (hk : blocks[k]? = some s)
    (hstep : step s = .next t) : stepBlock k blocks = .next (blocks.set k t) := by
  simp [stepBlock, hk, hstep]

/-- Settles O38: with no block `k` the list stays; else exactly its place `k` is set to what the block's step answers. -/
theorem blocksShareNothing : Obligations.BlocksShareNothing := by
  intro blocks k
  cases hk : blocks[k]? with
  | none => exact ⟨blocks, stepBlock_of_none hk, rfl, fun _ _ => rfl, nofun⟩
  | some s =>
    obtain ⟨t, hstep⟩ := exists_step_eq_next s
    have hlt : k < blocks.length := (List.getElem?_eq_some_iff.mp hk).1
    refine ⟨blocks.set k t, stepBlock_of_step hk hstep, List.length_set, fun j hj => List.getElem?_set_ne hj.symm, ?_⟩
    rintro _ ⟨⟩
    exact ⟨t, hstep, List.getElem?_set_self hlt⟩

/-- After an edge with `rst = 1` the outputs are those of a block that starts at reset. -/
theorem observed_cons_of_rst (s : State) {p : Inputs} (hrst : p.rst = true) (ins : List Inputs) :
    observed (p :: ins) s = State.reset.outputs :: observed ins State.reset := by
  rw [observed_cons, edgeState_of_rst s hrst, State.resetRegisters_eq, observed_present, State.outputs_present]

/-- Settles O37: from either state the reset edge leaves the observation of one block that starts at reset. -/
theorem blocksWithSameInputsShowSameOutputs : Obligations.BlocksWithSameInputsShowSameOutputs := by
  intro s t c d ins
  rw [observed_cons_of_rst s rfl, observed_cons_of_rst t rfl]

end Sys2Proof.Machine
end

section
/-! Reset and hazards (spec/70_reset_and_hazards.md): one edge with `rst = 1` or `rst = 0`, a reset held for several
edges, and a response held until the next one. -/

namespace Sys2Proof.Machine

/-! ### One edge (R170, R172) -/

/-- Settles O1: `step_cons` with the rule of a reset edge, and with that of a command's edge. -/
theorem edgeResetsOrPerformsCommand : Obligations.EdgeResetsOrPerformsCommand := by
  refine fun s c rest => ⟨?_, ?_⟩
  · rw [step_cons rfl, edgeState_of_rst _ rfl]
    rfl
  · rw [step_cons rfl, edgeState_of_not_rst _ rfl, exec_eq]
    rfl

/-- Settles O3: O1 holds for every state, so for the free values too. -/
theorem powerOnThenResetIsDetermined : Obligations.PowerOnThenResetIsDetermined :=
  fun c rest => (edgeResetsOrPerformsCommand (State.powerOn []) c rest).1

/-! ### The last edge of a run -/

theorem edgesState_concat (ins : List Inputs) (p : Inputs) (s : State) :
    edgesState (ins ++ [p]) s = (edgeState p (edgesState ins s)).present [] := by
  rw [edgesState_append, edgesState_cons]
  rfl

/-- A run shows the response of its last edge when that edge generates. -/
theorem edgesState_append_generating {p : Inputs} (ins : List Inputs) (s : State) (hgen : generates p = true) :
    (edgesState (ins ++ [p]) s).rspValid = true ∧ (edgesState (ins ++ [p]) s).rspOp = p.cmd.cmdOp := by
  rw [edgesState_concat]
  exact ⟨(edgeState_rspValid p _).trans hgen, (edgeState_rspOp_of_generates _ hgen).1⟩

/-! ### Reset held for several edges (R171) -/

theorem edgeState_reset_of_rst {p : Inputs} (hrst : p.rst = true) : edgeState p State.reset = State.reset :=
  edgeState_of_rst State.reset hrst

/-- One reset edge brings the reset state, and any further ones keep it. -/
theorem edgesState_of_rst {p : Inputs} {ins : List Inputs} (s : State) (hp : p.rst = true)
    (hins : ∀ q ∈ ins, q.rst = true) : edgesState (p :: ins) s = State.reset := by
  rw [edgesState_cons, edgeState_of_rst s hp]
  exact edgesState_keeps (P := fun t => t = State.reset) (fun q hq t ht => ht ▸ edgeState_reset_of_rst (hins q hq)) rfl

theorem edgesState_map_rst (s : State) (c : CmdPort) (cs : List CmdPort) :
    edgesState ((c :: cs).map (Inputs.mk true)) s = State.reset :=
  edgesState_of_rst s rfl (List.forall_mem_map.mpr fun _ _ => rfl)

/-- After a held reset the words are 0, so a generating edge answers 0 under its own code. -/
theorem after_rst_append_generating {p : Inputs} (s : State) (c : CmdPort) (cs : List CmdPort)
    (hgen : generates p = true) (hseed : seeds p = false) :
    ∃ t, after ((c :: cs).map (Inputs.mk true) ++ [p]) s = .next t ∧
      t.rspValid = true ∧ t.rspOp = p.cmd.cmdOp ∧ t.rspData = 0 := by
  obtain ⟨hvalid, hop⟩ := edgesState_append_generating ((c :: cs).map (Inputs.mk true)) s hgen
  refine ⟨_, after_eq _ s, hvalid, hop, ?_⟩
  rw [edgesState_concat, edgesState_map_rst] at hvalid ⊢
  exact (edgeState_of_zeroWords (s := State.reset) ⟨rfl, rfl⟩ hseed).2 hvalid

/-- Settles O4: the held reset is `State.reset`, from where one edge is `exec`, and either generating command answers
0. -/
theorem heldResetThenGeneratingReturnsZero : Obligations.HeldResetThenGeneratingReturnsZero := by
  refine fun s c cs a b => ⟨?_, fun d => ?_, after_rst_append_generating s c cs ?_ rfl,
    after_rst_append_generating s c cs ?_ rfl⟩
  · rw [after_eq, edgesState_map_rst]
  · rw [after_eq, edgesState_concat, edgesState_map_rst, edgeState_of_not_rst _ rfl, exec_eq, ← execState_present]
    rfl
  · simp [generates, Instr.isGenerating]
  · simp [generates, Instr.isGenerating]

/-! ### A response held (R176) -/

theorem edgesState_response_frame {ins : List Inputs} (s : State)
    (hins : ∀ q ∈ ins, q.rst = false ∧ generates q = false) :
    (edgesState ins s).rspOp = s.rspOp ∧ (edgesState ins s).rspData = s.rspData := by
  refine edgesState_keeps (P := fun t => t.rspOp = s.rspOp ∧ t.rspData = s.rspData) ?_ ⟨rfl, rfl⟩
  rintro q hq t ⟨hop, hdata⟩
  obtain ⟨hrst, hgen⟩ := hins q hq
  obtain ⟨hop', hdata'⟩ := edgeState_response_frame t hrst hgen
  exact ⟨hop'.trans hop, hdata'.trans hdata⟩

/-- After at least one edge, none of them generating, no response is on show. -/
theorem edgesState_rspValid_eq_false {ins : List Inputs} (s : State) (hne : ins ≠ [])
    (hins : ∀ q ∈ ins, generates q = false) : (edgesState ins s).rspValid = false := by
  obtain rfl | ⟨ins, q, rfl⟩ := List.eq_nil_or_concat' ins
  · exact absurd rfl hne
  · rw [edgesState_concat]
    exact (edgeState_rspValid q _).trans (hins q (by simp))

/-- Settles O33: the frame of a run that neither resets nor generates, and the response of a run's last edge. -/
theorem responseHeldUntilReplaced : Obligations.ResponseHeldUntilReplaced := by
  intro s p ins hgen hins
  obtain ⟨hvalid, hcode⟩ := edgesState_append_generating [] s hgen
  obtain ⟨hop, hdata⟩ := edgesState_response_frame (edgesState [p] s) hins
  rw [← edgesState_append] at hop hdata
  refine ⟨_, _, after_eq [p] s, after_eq (p :: ins) s, hvalid, hcode, hop, hdata, fun hne => ?_, fun q hq => ?_⟩
  · rw [edgesState_cons]
    exact edgesState_rspValid_eq_false _ hne fun q hq => (hins q hq).2
  · exact ⟨_, _, after_eq _ s, after_eq [q] _, edgesState_append (p :: ins) [q] s,
      edgesState_append_generating (p :: ins) s hq⟩

end Sys2Proof.Machine
end
